-- ==== Sys2Proof/Word.lean ====
section
/-! DEFINITION. The bits and bit sequences the block works on (00_scope.md R10, R11; 10_state.md R21, R22). -/

namespace Sys2Proof

/-- A bit (R21): 0 is dominant, 1 is recessive. -/
abbrev Bit := BitVec 1

/-- A bit sequence (R22): index 0 is transmitted first. -/
abbrev BitSeq := List Bit

/-- One byte of an encoding as the opcode table numbers it. -/
abbrev Byte := BitVec 8

end Sys2Proof
end

