-- ==== Sys2Proof/Config.lean ====
section
/-! DEFINITION. The parameters of the block: those the document fixes (00_scope.md R8) and those the
spec fixes (R9, 92_eei_decisions.md). Every parameter has the one value this hardware takes; there is
no free value in this model (NOTES.md says where the spec's unspecified outputs went). `CRC_MASK` (R8) is
the width of the CRC register: a `BitVec 15` holds fifteen bits. `VALIDATE` (R9) is `DEFENSIVE`: the
assembler and ACCEPT test the descriptor themselves (R199). -/

namespace Sys2Proof.Config

/-- `ID_W` (R8): identifier field width. -/
abbrev idW : Nat := 11
/-- `ID_MAX` (R8): largest legal identifier. -/
abbrev idMax : Nat := 2047
/-- `DLC_W` (R8): DLC field width. -/
abbrev dlcW : Nat := 4
/-- `DLC_MAX` (R8): largest legal dlc. -/
abbrev dlcMax : Nat := 8
/-- `BYTE_W` (R8): bits per data byte. -/
abbrev byteW : Nat := 8
/-- `BYTE_MAX` (R8): largest legal data byte. -/
abbrev byteMax : Nat := 255
/-- `CRC_W` (R8): width of the CRC register and of the CRC field. -/
abbrev crcW : Nat := 15
/-- `CRC_POLY` (R8): the constant XORed into the CRC register. -/
abbrev crcPoly : BitVec 15 := 0x4599
/-- `CRC_INIT` (R8): start value of the CRC register. -/
abbrev crcInit : BitVec 15 := 0
/-- `STUFF_LEN` (R8): run length at which a bit is inserted. -/
abbrev stuffLen : Nat := 5
/-- `RUN_RESET` (R8, D1): value of the run counter after an insertion; no other value is admitted (R130). -/
abbrev runReset : Nat := 0
/-- `SOF_BIT` (R8). -/
abbrev sofBit : Bit := 0
/-- `IDE_BIT` (R8). -/
abbrev ideBit : Bit := 0
/-- `R0_BIT` (R8). -/
abbrev r0Bit : Bit := 0
/-- `CRCDEL_BIT` (R8). -/
abbrev crcDelBit : Bit := 1
/-- `ACK_BIT` (R8). -/
abbrev ackBit : Bit := 1
/-- `ACKDEL_BIT` (R8). -/
abbrev ackDelBit : Bit := 1
/-- The value of each end-of-frame bit (R8, `EOF_LEN`: "all 1"). -/
abbrev eofBit : Bit := 1
/-- `EOF_LEN` (R8): number of end-of-frame bits. -/
abbrev eofLen : Nat := 7
/-- `PRE_FIXED_LEN` (R8): unstuffed bits before the data field. -/
abbrev preFixedLen : Nat := 19
/-- `TAIL_LEN` (R8): bits after the stuffed part. -/
abbrev tailLen : Nat := 25
/-- `ID_PORT_W` (R9): width of the identifier port. -/
abbrev idPortW : Nat := 16
/-- `NBYTES_W` (R9): width of the supplied-byte-count port. -/
abbrev nbytesW : Nat := 4
/-- `N_LANES` (R9): byte lanes of the data port. -/
abbrev nLanes : Nat := 8
/-- `CMD_W` (R9): width of the packed command word. -/
abbrev cmdW : Nat := 89
/-- `FIELD_W` (R9): width of the field code on the response stream. -/
abbrev fieldW : Nat := 4
/-- `ERR_W` (R9): width of the error code. -/
abbrev errW : Nat := 3
/-- `MAX_PRE_STUFFED` (R9): largest stuffed pre-CRC length. -/
abbrev maxPreStuffed : Nat := 99
/-- `MAX_LEN` (R9): largest frame length in bits. -/
abbrev maxLen : Nat := 124

/-- The two admitted values of `PAD_POLICY` (R9, D3). -/
inductive PadPolicy where
  | zeroPad
  | reject
  deriving DecidableEq, Repr

/-- `PAD_POLICY` of this hardware (R9, D3, R136): a short data sequence is padded with zero bytes. -/
abbrev padPolicy : PadPolicy := .zeroPad

end Sys2Proof.Config
end

