-- ==== Sys2Proof/Syntax.lean ====
section
/-! DEFINITION. The operations of the block as syntax (30_encoding.md R70; opcode_table.json), with
their operands. One constructor of `Instr` per mnemonic of the table: the several rows of one mnemonic
are mask patterns of one operation (log entry 1). -/

namespace Sys2Proof

/-- The frame descriptor (R20): unbounded naturals, as the function level reads them; an omitted
`remoteRequest` means `false` (D6). -/
structure Descriptor where
  identifier : Nat
  dlc : Nat
  dataBytes : List Nat
  remoteRequest : Bool := false
  deriving DecidableEq, Repr

/-- The five command inputs, `CMD[88:0]` cut into its fields (R28, R71). -/
structure Command where
  nbytes : BitVec 4
  dlc : BitVec 4
  rtr : Bit
  id : BitVec 16
  data : BitVec 64
  deriving DecidableEq, Repr

/-- The two operand forms of `ENC.DATA` and `ENC.REMOTE` (R70 "function and port"): a call of `assemble`
with unbounded naturals, or the fields of a command word. `remoteRequest` is not an operand: the
mnemonic fixes it (R84). -/
inductive EncForm where
  | call (identifier dlc : Nat) (dataBytes : List Nat)
  | command (nbytes dlc : BitVec 4) (id : BitVec 16) (data : BitVec 64)
  deriving DecidableEq, Repr

/-- The operations of the block (R70). -/
inductive Instr where
  /-- `ENC.DATA` (R145). -/
  | encData (form : EncForm)
  /-- `ENC.REMOTE` (R146). -/
  | encRemote (form : EncForm)
  /-- `ILLEGAL.ID`: a command word whose identifier is above 0x7FF (R73 (1), R191). -/
  | illegalId (cmd : Command)
  /-- `ILLEGAL.DLC`: a command word with a legal identifier and dlc 9 to 15 (R73 (2), R192). -/
  | illegalDlc (cmd : Command)
  /-- `ACCEPT` (R160). -/
  | accept
  /-- `PH.SOF` (R162). -/
  | phSof
  /-- `PH.ID` (R163). -/
  | phId
  /-- `PH.RTR` (R164). -/
  | phRtr
  /-- `PH.IDE` (R165). -/
  | phIde
  /-- `PH.R0` (R166). -/
  | phR0
  /-- `PH.DLC` (R167). -/
  | phDlc
  /-- `PH.DATA` (R168). -/
  | phData
  /-- `PH.CRC` (R169). -/
  | phCrc
  /-- `PH.CRCDEL` (R170). -/
  | phCrcDel
  /-- `PH.ACK` (R171). -/
  | phAck
  /-- `PH.ACKDEL` (R172). -/
  | phAckDel
  /-- `PH.EOF` (R173). -/
  | phEof
  /-- `STUFFBEAT` (R174). -/
  | stuffBeat
  /-- `ERRBEAT` (R176). -/
  | errBeat
  /-- `INT2BITS` (R100): `intToBits(value, width)`. -/
  | int2bits (value width : Nat)
  /-- `BYTES2BITS` (R102): `bytesToBits(bytes)`. -/
  | bytes2bits (bytes : List Nat)
  /-- `CONCAT` (R103): `concat(s1, ..., sn)`. -/
  | concat (seqs : List BitSeq)
  /-- `BITS2INT` (R104): `bitsToInt(bits)`. -/
  | bits2int (bits : BitSeq)
  /-- `CRC.INIT` (R110). -/
  | crcInit
  /-- `CRC.STEP` (R111): `crc_step(crc, b)`. -/
  | crcStep (crc : BitVec 15) (b : Bit)
  /-- `CRC15` (R112): `crc15(bits)`. -/
  | crc15 (bits : BitSeq)
  /-- `STUFF.INIT` (R120). -/
  | stuffInit
  /-- `STUFF.STEP` (R121): one input bit `b` on the detector state `(run, prev)` and the output so far. -/
  | stuffStep (run : Nat) (prev : Bit) (out : BitSeq) (ins : List Nat) (b : Bit)
  /-- `STUFF` (R122): `stuff(bits)`. -/
  | stuff (bits : BitSeq)
  /-- `DESTUFF` (R128): `destuff(stuffedBits, insertedPositions)`. -/
  | destuff (stuffedBits : BitSeq) (insertedPositions : List Nat)
  /-- `VALIDATE` (R135) on a descriptor. -/
  | validate (d : Descriptor)
  deriving DecidableEq, Repr

/-- A call of a function-level operation. These are "selected by name and have no binary encoding" (R70). -/
inductive Call where
  | encData (identifier dlc : Nat) (dataBytes : List Nat)
  | encRemote (identifier dlc : Nat) (dataBytes : List Nat)
  | int2bits (value width : Nat)
  | bytes2bits (bytes : List Nat)
  | concat (seqs : List BitSeq)
  | bits2int (bits : BitSeq)
  | crcInit
  | crcStep (crc : BitVec 15) (b : Bit)
  | crc15 (bits : BitSeq)
  | stuffInit
  | stuffStep (run : Nat) (prev : Bit) (out : BitSeq) (ins : List Nat) (b : Bit)
  | stuff (bits : BitSeq)
  | destuff (stuffedBits : BitSeq) (insertedPositions : List Nat)
  | validate (d : Descriptor)
  deriving DecidableEq, Repr

end Sys2Proof
end

