-- ==== Sys2Proof/WellFormed.lean ====
section
/-! DEFINITION. Which instructions are well formed: the operand ranges the spec gives each operation.
An operation outside its range still has a defined answer in the machine (an error, a refusal, or the
plain computation); well-formedness is what encoding and decoding agree on. -/

namespace Sys2Proof

/-- A strictly ascending list of indices below `n` (R23: how `insertedPositions` is held). -/
def ascendingBelow (n : Nat) : List Nat → Bool
  | [] => true
  | [p] => p < n
  | p :: q :: rest => p < q && ascendingBelow n (q :: rest)

/-- The command words that decode to `ENC.DATA` or `ENC.REMOTE` (R73): identifier and dlc in range. The
call form takes any naturals, because `VALIDATE` answers for all of them (R135). -/
def EncForm.wellFormed : EncForm → Bool
  | .call _ _ _ => true
  | .command _ dlc id _ => id ≤ 0x7FF && dlc ≤ 8

/-- The operand ranges of every operation. -/
def Instr.wellFormed : Instr → Bool
  | .encData form => form.wellFormed
  | .encRemote form => form.wellFormed
  | .illegalId cmd => decide (0x7FF < cmd.id)
  | .illegalDlc cmd => cmd.id ≤ 0x7FF && decide (8 < cmd.dlc)
  | .int2bits value width => decide (value < 2 ^ width)
  | .bytes2bits bytes => bytes.all (· ≤ 255)
  | .stuffStep run _ _ _ _ => decide (run ≤ 4)
  | .destuff stuffedBits ins => ascendingBelow stuffedBits.length ins
  | .accept | .phSof | .phId | .phRtr | .phIde | .phR0 | .phDlc | .phData | .phCrc => true
  | .phCrcDel | .phAck | .phAckDel | .phEof | .stuffBeat | .errBeat => true
  | .concat _ | .bits2int _ | .crcInit | .crcStep _ _ | .crc15 _ => true
  | .stuffInit | .stuff _ | .validate _ => true

end Sys2Proof
end

