-- ==== Sys2Proof/Decode.lean ====
section
/-! DEFINITION. The encodings of the operations (30_encoding.md R70 to R79), decoding and encoding.
There are three ways an operation is selected: by an 89-bit command word (R71, R73), by the 7-bit
selection word of the sequencer's state (R79), and by name (R70). -/

namespace Sys2Proof

/-- What selects an operation. -/
inductive Encoding where
  | command (w : BitVec 89)
  | select (w : BitVec 7)
  | call (c : Call)
  deriving DecidableEq, Repr

/-- Why bits select no operation. -/
inductive DecodeError where
  /-- `SEL` is `0101100` .. `0101111` or `11xxxxx`. R79 calls these unreachable from reset and R78, R32 give
  them no meaning; that they decode to an error is the model's choice (DESIGN CHOICE, safe, log entry 7). -/
  | reservedSelect (w : BitVec 7)
  /-- A 12-byte or 1-byte word with a bit set above the 89 or 7 bits of its format. -/
  | bitsAboveWord
  /-- No format of the opcode table has this many bytes. -/
  | noSuchLength (n : Nat)
  deriving DecidableEq, Repr

/-- The fields of the command word, at the bit positions of the table in R71. -/
def Command.ofWord (w : BitVec 89) : Command where
  nbytes := w.extractLsb' 85 4
  dlc := w.extractLsb' 81 4
  rtr := w.extractLsb' 80 1
  id := w.extractLsb' 64 16
  data := w.extractLsb' 0 64

/-- `CMD[88:0] = {nbytes, dlc, rtr, id, data}` (R71). -/
def Command.toWord (c : Command) : BitVec 89 :=
  c.nbytes ++ c.dlc ++ c.rtr ++ c.id ++ c.data

/-- The command that the notation `ENC id=.. dlc=.. data=[..] rtr=..` stands for (R83): `nbytes` is the
length of the list, "lanes not listed are 0", "`rtr` omitted means 0". Of a longer list the first eight
bytes are taken (R72, D15). -/
def Command.ofNotation (id : BitVec 16) (dlc : BitVec 4) (bytes : List Byte) (rtr : Bit := 0) : Command :=
  let used := bytes.take Config.nLanes
  let at' (k : Nat) : Byte := used.getD k 0
  { nbytes := BitVec.ofNat 4 used.length
    dlc := dlc
    rtr := rtr
    id := id
    data := at' 0 ++ at' 1 ++ at' 2 ++ at' 3 ++ at' 4 ++ at' 5 ++ at' 6 ++ at' 7 }

/-- Command decode, the four outcomes tested in the order of R73. No command word is rejected. -/
def decodeCommandFields (c : Command) : Instr :=
  if 0x7FF < c.id then .illegalId c
  else if 8 < c.dlc then .illegalDlc c
  else if c.rtr = 0 then .encData (.command c.nbytes c.dlc c.id c.data)
  else .encRemote (.command c.nbytes c.dlc c.id c.data)

/-- Command decode of the 89-bit word (R71, R73). -/
def decodeCommand (w : BitVec 89) : Instr :=
  decodeCommandFields (Command.ofWord w)

/-- The phase operation that `ph` names (R77, R79); codes 12 to 15 are reserved (R78). -/
def decodePhase (ph : BitVec 4) : Option Instr :=
  match ph.toNat with
  | 0 => some .phSof
  | 1 => some .phId
  | 2 => some .phRtr
  | 3 => some .phIde
  | 4 => some .phR0
  | 5 => some .phDlc
  | 6 => some .phData
  | 7 => some .phCrc
  | 8 => some .phCrcDel
  | 9 => some .phAck
  | 10 => some .phAckDel
  | 11 => some .phEof
  | _ => none

/-- Selection of the sequencer operation by `SEL = {mode, sp, ph}` (R79). -/
def decodeSelect (w : BitVec 7) : Except DecodeError Instr :=
  let mode := w.extractLsb' 5 2
  let sp := w.extractLsb' 4 1
  let ph := w.extractLsb' 0 4
  if mode = 0 then .ok .accept
  else if mode = 1 then
    if sp = 1 then .ok .stuffBeat
    else match decodePhase ph with
      | some i => .ok i
      | none => .error (.reservedSelect w)
  else if mode = 2 then .ok .errBeat
  else .error (.reservedSelect w)

/-- The operation a call by name selects (R70). -/
def Call.toInstr : Call → Instr
  | .encData identifier dlc dataBytes => .encData (.call identifier dlc dataBytes)
  | .encRemote identifier dlc dataBytes => .encRemote (.call identifier dlc dataBytes)
  | .int2bits value width => .int2bits value width
  | .bytes2bits bytes => .bytes2bits bytes
  | .concat seqs => .concat seqs
  | .bits2int bits => .bits2int bits
  | .crcInit => .crcInit
  | .crcStep crc b => .crcStep crc b
  | .crc15 bits => .crc15 bits
  | .stuffInit => .stuffInit
  | .stuffStep run prev out ins b => .stuffStep run prev out ins b
  | .stuff bits => .stuff bits
  | .destuff stuffedBits ins => .destuff stuffedBits ins
  | .validate d => .validate d

/-- The decoder: total on every command word, selection word and call. -/
def decode : Encoding → Except DecodeError Instr
  | .command w => .ok (decodeCommand w)
  | .select w => decodeSelect w
  | .call c => .ok c.toInstr

/-- The selection word of a sequencer operation, its don't-care bits zero (opcode_table.json, `SEL7` rows). -/
def encodeSelect (mode : BitVec 2) (sp : Bit) (ph : BitVec 4) : Encoding :=
  .select (mode ++ sp ++ ph)

/-- The encoder. -/
def encode : Instr → Encoding
  | .encData (.call identifier dlc dataBytes) => .call (.encData identifier dlc dataBytes)
  | .encData (.command nbytes dlc id data) => .command (Command.toWord ⟨nbytes, dlc, 0, id, data⟩)
  | .encRemote (.call identifier dlc dataBytes) => .call (.encRemote identifier dlc dataBytes)
  | .encRemote (.command nbytes dlc id data) => .command (Command.toWord ⟨nbytes, dlc, 1, id, data⟩)
  | .illegalId cmd => .command cmd.toWord
  | .illegalDlc cmd => .command cmd.toWord
  | .accept => encodeSelect 0 0 0
  | .phSof => encodeSelect 1 0 0
  | .phId => encodeSelect 1 0 1
  | .phRtr => encodeSelect 1 0 2
  | .phIde => encodeSelect 1 0 3
  | .phR0 => encodeSelect 1 0 4
  | .phDlc => encodeSelect 1 0 5
  | .phData => encodeSelect 1 0 6
  | .phCrc => encodeSelect 1 0 7
  | .phCrcDel => encodeSelect 1 0 8
  | .phAck => encodeSelect 1 0 9
  | .phAckDel => encodeSelect 1 0 10
  | .phEof => encodeSelect 1 0 11
  | .stuffBeat => encodeSelect 1 1 0
  | .errBeat => encodeSelect 2 0 0
  | .int2bits value width => .call (.int2bits value width)
  | .bytes2bits bytes => .call (.bytes2bits bytes)
  | .concat seqs => .call (.concat seqs)
  | .bits2int bits => .call (.bits2int bits)
  | .crcInit => .call .crcInit
  | .crcStep crc b => .call (.crcStep crc b)
  | .crc15 bits => .call (.crc15 bits)
  | .stuffInit => .call .stuffInit
  | .stuffStep run prev out ins b => .call (.stuffStep run prev out ins b)
  | .stuff bits => .call (.stuff bits)
  | .destuff stuffedBits ins => .call (.destuff stuffedBits ins)
  | .validate d => .call (.validate d)

/-! ### Words as bytes, numbered as opcode_table.json numbers them (log entry 2) -/

/-- The number whose little-endian bytes these are. -/
def natOfBytes : List Byte → Nat
  | [] => 0
  | b :: rest => b.toNat + 256 * natOfBytes rest

/-- The first `n` little-endian bytes of `w`. -/
def bytesOfNat : Nat → Nat → List Byte
  | 0, _ => []
  | n + 1, w => BitVec.ofNat 8 w :: bytesOfNat n (w / 256)

/-- Twelve bytes are a command word, one byte is a selection word, and nothing else is a word of the
table. A set bit above the format's 89 or 7 bits is rejected. -/
def decodeBytes (bytes : List Byte) : Except DecodeError Instr :=
  let w := natOfBytes bytes
  if bytes.length = 12 then
    if w < 2 ^ 89 then decode (.command (BitVec.ofNat 89 w)) else .error .bitsAboveWord
  else if bytes.length = 1 then
    if w < 2 ^ 7 then decode (.select (BitVec.ofNat 7 w)) else .error .bitsAboveWord
  else .error (.noSuchLength bytes.length)

/-- The instruction the decoder reads from a word of the opcode table of `nbits` bits. -/
def decodeTableWord (nbits w : Nat) : Option Instr :=
  match decodeBytes (bytesOfNat ((nbits + 7) / 8) w) with
  | .ok i => some i
  | .error _ => none

end Sys2Proof
end

