-- ==== Sys2Proof/Machine/State.lean ====
section
/-! DEFINITION. The state of the block, the values its operations take and give, and why a step can stop
(10_state.md; 00_scope.md R13). The block has no memory (20_memory.md R50), so State holds none. -/

namespace Sys2Proof.Machine

/-! ### The data model (R20 to R25) -/

/-- The four error kinds with the recorded value (R190). An error is an ordinary, defined outcome. -/
inductive EncodeError where
  | invalidIdentifier (identifier : Nat)
  | invalidDlc (dlc : Nat)
  | invalidDataByte (index : Nat)
  | insufficientDataBytes (supplied dlc : Nat)
  deriving DecidableEq, Repr

/-- The detector and inserter between two input bits (R120, R121). -/
structure StuffState where
  run : Nat
  prev : Bit
  out : BitSeq
  ins : List Nat
  deriving DecidableEq, Repr

/-- The stuffing result (R23), `insertedPositions` as the strictly ascending list. -/
structure StuffResult where
  stuffedBits : BitSeq
  insertedPositions : List Nat
  deriving DecidableEq, Repr

/-- The nine top-level fields, in transmission order (R77). -/
inductive TopField where
  | startOfFrame
  | arbitration
  | control
  | data
  | crc
  | crcDelimiter
  | ackSlot
  | ackDelimiter
  | endOfFrame
  deriving DecidableEq, Repr

/-- The twelve sub-fields, one per field code, in transmission order (R77). -/
inductive SubField where
  | sof
  | id
  | rtr
  | ide
  | r0
  | dlc
  | data
  | crc
  | crcDel
  | ack
  | ackDel
  | eof
  deriving DecidableEq, Repr

/-- A field range (R24): the half-open interval `[start, stop)` of output positions. Its label is
`range.field.label`. -/
structure FieldRange where
  field : TopField
  start : Nat
  stop : Nat
  deriving DecidableEq, Repr

/-- The same for a sub-field (R143). -/
structure SubRange where
  field : SubField
  start : Nat
  stop : Nat
  deriving DecidableEq, Repr

/-- The frame encoding result (R25). -/
structure FrameResult where
  bits : BitSeq
  fieldRanges : List FieldRange
  insertedPositions : List Nat
  subRanges : List SubRange
  deriving DecidableEq, Repr

/-- What a function-level operation returned: a value or an error (R13). -/
inductive Returned where
  /-- No function-level operation has been called yet. -/
  | nothing
  | bits (b : BitSeq)
  | number (n : Nat)
  | crc (c : BitVec 15)
  | stuffState (st : StuffState)
  | stuffed (r : StuffResult)
  /-- `VALIDATE` found the descriptor acceptable. -/
  | accepted
  | frame (r : FrameResult)
  | error (e : EncodeError)
  deriving DecidableEq, Repr

/-! ### Ports (R28, R29) -/

/-- The levels of the input ports at one rising edge of `clk` (R28, R29). -/
structure Pins where
  rst : Bit
  cmdValid : Bit
  cmd : Command
  outReady : Bit
  deriving DecidableEq, Repr

/-- One beat of the response stream: the six outputs that carry it (R29). -/
structure Beat where
  err : Bit
  code : BitVec 3
  bit : Bit
  stuff : Bit
  field : BitVec 4
  last : Bit
  deriving DecidableEq, Repr

/-! ### The state -/

/-- The registers of R31 to R37, the levels of the input ports, and the model's own record of what
crosses the interface (log entry 3). -/
structure State where
  /-- `mode[1:0]` (R32): 0 IDLE, 1 RUN, 2 ERR. -/
  mode : BitVec 2
  /-- `ecode[2:0]` (R37). -/
  ecode : BitVec 3
  /-- `d_id[10:0]` (R31). -/
  dId : BitVec 11
  /-- `d_rtr` (R31). -/
  dRtr : Bit
  /-- `d_dlc[3:0]` (R31). -/
  dDlc : BitVec 4
  /-- `d_data[63:0]` (R31, R54). -/
  dData : BitVec 64
  /-- `ph[3:0]` (R33). -/
  ph : BitVec 4
  /-- `ix[5:0]` (R33). -/
  ix : BitVec 6
  /-- `crc[14:0]` (R34). -/
  crc : BitVec 15
  /-- `run[2:0]` (R35). -/
  run : BitVec 3
  /-- `prev` (R35). -/
  prev : Bit
  /-- `sp` (R35). -/
  sp : Bit
  /-- `ltag[3:0]` (R36). -/
  ltag : BitVec 4
  /-- `opos[6:0]` (R36). -/
  opos : BitVec 7
  /-- The input ports at the coming edge (R28, R29). -/
  pins : Pins
  /-- The input ports at the edges after that; the last levels are held (log entry 4). -/
  future : List Pins
  /-- Calls of function-level operations not yet evaluated, first one first (log entry 5). -/
  calls : List Call
  /-- Beats transferred on the response stream, oldest first (R29, log entry 6). -/
  sent : List Beat
  /-- What the last function-level operation returned (R13, log entry 5). -/
  returned : Returned
  deriving DecidableEq, Repr

/-- Why the machine is stuck. Each is a state that R42 and 93_implementation_defined.md U16 call
unreachable from reset; U16 allows `stuck`. All are safe: no run from reset meets one. -/
inductive Fault where
  /-- `SEL` is `11xxxxx` or `0101100` .. `0101111` (R79, R32, R78). Raised by the step. Safe. -/
  | unreachableSelect (e : DecodeError)
  /-- `mode = 3` (R32). Raised by an operation that is executed there. Safe. -/
  | modeThree
  /-- `ecode != 0` outside ERR (R37, U16). Raised by the port-level operations. Safe. -/
  | errorCodeOutsideErr
  /-- `run >= 5` between steps (R35, U16). Raised by the port-level operations. Safe. -/
  | runOutOfRange
  /-- `d_dlc > 8` in RUN (R42). Raised by the port-level operations. Safe. -/
  | latchedDlcOutOfRange
  /-- `ph` in 12..15 or `ix >= PhLen(ph)` while a phase operation is due (R33, U16). Raised by the
  port-level operations. Safe. -/
  | positionOutOfPhase
  deriving DecidableEq, Repr

/-- Why an operation has no meaning (R12 `refuse`). -/
inductive Refusal where
  /-- No meaning written yet. Raised by `exec` only. Safe. -/
  | notModelled (mnemonic : String)
  /-- `intToBits(value, width)` with `value >= 2^width` (R101: "a model gives no result"). Raised by
  INT2BITS. Safe. -/
  | valueOutOfWidth (value width : Nat)
  /-- `bytesToBits` on an element above 255 (R102). Raised by BYTES2BITS. Safe. -/
  | byteOutOfRange (bytes : List Nat)
  /-- `STUFF.STEP` with `run >= 5` (R121: "`0 <= run <= 4`"; U16). Raised by STUFF.STEP. Safe. -/
  | stuffRunOutOfRange (run : Nat)
  /-- A sequencer operation that `SEL` does not select (R79). Raised by ACCEPT, PH.*, STUFFBEAT and
  ERRBEAT when executed outside the step, which never does it. Safe. -/
  | notSelected
  deriving DecidableEq, Repr

/-- The input levels the model starts from: nothing offered, the consumer ready (log entry 4). -/
def Pins.initial : Pins where
  rst := 0
  cmdValid := 0
  cmd := ⟨0, 0, 0, 0, 0⟩
  outReady := 1

/-- The machine right after reset: the reset column of R41, and the model's own fields empty. -/
def State.reset : State where
  mode := 0
  ecode := 0
  dId := 0
  dRtr := 0
  dDlc := 0
  dData := 0
  ph := 0
  ix := 0
  crc := 0
  run := 0
  prev := 0
  sp := 0
  ltag := 0
  opos := 0
  pins := Pins.initial
  future := []
  calls := []
  sent := []
  returned := .nothing

end Sys2Proof.Machine
end

