-- ==== Sys2Proof/Machine/Flags.lean ====
section
/-! DEFINITION. Mode values, field codes and labels, and the flags the block computes from its registers
(10_state.md R32, R38; 30_encoding.md R77 to R80). There are no condition codes. -/

namespace Sys2Proof.Machine

/-- `IDLE = 0` (R32). -/
abbrev modeIdle : BitVec 2 := 0
/-- `RUN = 1` (R32). -/
abbrev modeRun : BitVec 2 := 1
/-- `ERR = 2` (R32). -/
abbrev modeErr : BitVec 2 := 2

/-- `cmd_ready` (R28): "equals `mode = IDLE`". -/
def State.cmdReady (s : State) : Bit := BitVec.ofBool (s.mode == modeIdle)

/-- `out_valid` (R29): "equals `mode != IDLE`". -/
def State.outValid (s : State) : Bit := BitVec.ofBool (s.mode != modeIdle)

/-- `out_err` (R38): "equals `mode = ERR`". -/
def State.outErr (s : State) : Bit := BitVec.ofBool (s.mode == modeErr)

/-- `out_stuff` (R38): "equals `sp` in `RUN`"; 0 on an error beat (R176). In IDLE R30 leaves the output
unspecified: the 0 there is the model's choice (DESIGN CHOICE, log entry 11), unsafe for a claim that reads
it; `State.offered` never does. So is the 0 in the unreachable `mode = 3` (R32, U16; log entry 19). -/
def State.outStuff (s : State) : Bit := if s.mode = modeRun then s.sp else 0

/-- `out_last` (R38): `ph = 11` and `ix = 6` and `sp = 0`, or `mode = ERR`. -/
def State.outLast (s : State) : Bit :=
  BitVec.ofBool ((s.ph == 11 && s.ix == 6 && s.sp == 0) || s.mode == modeErr)

/-- `SEL[6:0] = {mode[1:0], sp, ph[3:0]}` (R79). -/
def State.select (s : State) : BitVec 7 := s.mode ++ s.sp ++ s.ph

/-- `(ph, ix)` is the last bit of the frame (R161 `last`). -/
def isLastBit (ph : BitVec 4) (ix : BitVec 6) : Bit := BitVec.ofBool (ph == 11 && ix == 6)

/-- The pre-CRC phases: start bit to data (R161 `ph <= 6`). -/
def isPreCrc (ph : BitVec 4) : Bool := ph ≤ 6

/-- The code of an error (R80, R190). -/
def EncodeError.code : EncodeError → BitVec 3
  | .invalidIdentifier _ => 1
  | .invalidDlc _ => 2
  | .invalidDataByte _ => 3
  | .insufficientDataBytes _ _ => 4

/-- The field code of a sub-field (R77). -/
def SubField.code : SubField → BitVec 4
  | .sof => 0
  | .id => 1
  | .rtr => 2
  | .ide => 3
  | .r0 => 4
  | .dlc => 5
  | .data => 6
  | .crc => 7
  | .crcDel => 8
  | .ack => 9
  | .ackDel => 10
  | .eof => 11

/-- The sub-detail label of a sub-field (R77, D30), where the document gives one. -/
def SubField.label : SubField → Option String
  | .id => some "Identifier"
  | .rtr => some "RTR"
  | .ide => some "IDE"
  | .r0 => some "r0"
  | .dlc => some "DLC"
  | .sof | .data | .crc | .crcDel | .ack | .ackDel | .eof => none

/-- `Top` (R77): the top-level field of a sub-field. -/
def SubField.top : SubField → TopField
  | .sof => .startOfFrame
  | .id | .rtr => .arbitration
  | .ide | .r0 | .dlc => .control
  | .data => .data
  | .crc => .crc
  | .crcDel => .crcDelimiter
  | .ack => .ackSlot
  | .ackDel => .ackDelimiter
  | .eof => .endOfFrame

/-- The number of a top-level field, 0 to 8 in transmission order (R77). -/
def TopField.index : TopField → Nat
  | .startOfFrame => 0
  | .arbitration => 1
  | .control => 2
  | .data => 3
  | .crc => 4
  | .crcDelimiter => 5
  | .ackSlot => 6
  | .ackDelimiter => 7
  | .endOfFrame => 8

/-- The label strings, exactly the document's (R77, D30). -/
def TopField.label : TopField → String
  | .startOfFrame => "Start of Frame"
  | .arbitration => "Arbitration Field"
  | .control => "Control Field"
  | .data => "Data Field"
  | .crc => "CRC Field"
  | .crcDelimiter => "CRC Delimiter"
  | .ackSlot => "ACK Slot"
  | .ackDelimiter => "ACK Delimiter"
  | .endOfFrame => "End of Frame"

end Sys2Proof.Machine
end

