-- ==== Sys2Proof/Machine/Operands.lean ====
section
/-! DEFINITION. How operands are read: data bytes and lanes (20_memory.md R53, R54), the descriptor of a
command word (30_encoding.md R72), the source bits of the phases (44_stream.md R162 to R173); and where
a function-level result goes. -/

namespace Sys2Proof.Machine

/-- `DataByte(k)` (R53): the supplied byte, or 0 where the caller supplies fewer (R136). -/
def dataByte (dataBytes : List Nat) (k : Nat) : Nat := dataBytes.getD k 0

/-- `min(nbytes, 8)` (R72, D15): values 9 to 15 are read as 8. -/
def suppliedBytes (nbytes : BitVec 4) : Nat := min nbytes.toNat Config.nLanes

/-- Lane `k` of the data port, `data[63-8k : 56-8k]` (R28, R72). -/
def lane (data : BitVec 64) (k : Nat) : BitVec 8 := data.extractLsb' (56 - 8 * k) 8

/-- The descriptor that a command word stands for (R72). -/
def descriptorOf (c : Command) : Descriptor where
  identifier := c.id.toNat
  dlc := c.dlc.toNat
  dataBytes := (List.range (suppliedBytes c.nbytes)).map fun k => (lane c.data k).toNat
  remoteRequest := c.rtr == 1

/-- What ACCEPT latches for lane `k` (R54): the lane, or 0 from the supplied count on. -/
def paddedLane (nbytes : BitVec 4) (data : BitVec 64) (k : Nat) : BitVec 8 :=
  if k < suppliedBytes nbytes then lane data k else 0

/-- `d_data` after ACCEPT (R54): the eight padded lanes, byte 0 in the most significant one. -/
def paddedData (nbytes : BitVec 4) (data : BitVec 64) : BitVec 64 :=
  let p := paddedLane nbytes data
  p 0 ++ p 1 ++ p 2 ++ p 3 ++ p 4 ++ p 5 ++ p 6 ++ p 7

/-- Source of PH.ID: `d_id[10 - ix]` (R163). -/
def State.idBit (s : State) : Bit := s.dId.extractLsb' (10 - s.ix.toNat) 1

/-- Source of PH.DLC: `d_dlc[3 - ix]` (R167). -/
def State.dlcBit (s : State) : Bit := s.dDlc.extractLsb' (3 - s.ix.toNat) 1

/-- Source of PH.DATA: `d_data[63 - ix]` (R168, R54). -/
def State.dataBit (s : State) : Bit := s.dData.extractLsb' (63 - s.ix.toNat) 1

/-- Source of PH.CRC: `crc[14 - ix]` (R169, R114). -/
def State.crcBit (s : State) : Bit := s.crc.extractLsb' (14 - s.ix.toNat) 1

/-- A function-level operation gives its value to the caller and touches nothing else (R26). -/
def State.give (s : State) (v : Returned) : State := { s with returned := v }

end Sys2Proof.Machine
end

