-- ==== Sys2Proof/Machine/BitVector.lean ====
section
/-! DEFINITION. Bit vector utilities (40_bitvec.md): INT2BITS, BYTES2BITS, CONCAT, BITS2INT. -/

namespace Sys2Proof.Machine

/-- The `width` low bits of `value`, most significant first (R100). Meaningful under R100's
precondition only; `intToBits` is the operation. -/
def msbFirst : (width value : Nat) → BitSeq
  | 0, _ => []
  | w + 1, value => BitVec.ofNat 1 (value >>> w) :: msbFirst w value

/-- `intToBits(value, width)` (R100); no result outside the precondition (R101). -/
def intToBits (value width : Nat) : Option BitSeq :=
  if value < 2 ^ width then some (msbFirst width value) else none

/-- `bytesToBits(bytes)` (R102); no result when an element is above 255. -/
def bytesToBits : List Nat → Option BitSeq
  | [] => some []
  | b :: rest =>
    match intToBits b Config.byteW, bytesToBits rest with
    | some first, some others => some (first ++ others)
    | _, _ => none

/-- `concat(s1, ..., sn)` (R103). -/
def concatBits : List BitSeq → BitSeq
  | [] => []
  | s :: rest => s ++ concatBits rest

/-- `bitsToInt(s)`, the sum of `s[i] * 2^(len(s)-1-i)` (R104). -/
def bitsToInt : BitSeq → Nat
  | [] => 0
  | b :: rest => b.toNat * 2 ^ rest.length + bitsToInt rest

/-- INT2BITS (R100, R101). -/
def execInt2Bits (value width : Nat) (s : State) : Host.Outcome State Fault Refusal :=
  match intToBits value width with
  | some b => .next (s.give (.bits b))
  | none => .refused (.valueOutOfWidth value width)

/-- BYTES2BITS (R102). -/
def execBytes2Bits (bytes : List Nat) (s : State) : Host.Outcome State Fault Refusal :=
  match bytesToBits bytes with
  | some b => .next (s.give (.bits b))
  | none => .refused (.byteOutOfRange bytes)

/-- CONCAT (R103). -/
def execConcat (seqs : List BitSeq) (s : State) : Host.Outcome State Fault Refusal :=
  .next (s.give (.bits (concatBits seqs)))

/-- BITS2INT (R104). -/
def execBits2Int (bits : BitSeq) (s : State) : Host.Outcome State Fault Refusal :=
  .next (s.give (.number (bitsToInt bits)))

end Sys2Proof.Machine
end

