-- ==== Sys2Proof/Machine/Crc.lean ====
section
/-! DEFINITION. The CRC-15 polynomial generator (41_crc15.md): CRC.INIT, CRC.STEP, CRC15. This is the one
CRC step of the model (R116, R228): the function level and the stream both use it. -/

namespace Sys2Proof.Machine

/-- `crc_step(crc, b)` (R111): the top bit is taken before the shift, the input bit enters at bit 0, and
the polynomial is applied after the shift. -/
def crcStep (crc : BitVec 15) (b : Bit) : BitVec 15 :=
  let top := crc.extractLsb' 14 1
  let t := (crc <<< 1) ||| b.setWidth 15
  if top = 1 then t ^^^ Config.crcPoly else t

/-- `crc15(bits)` (R112): CRC.INIT, then CRC.STEP for each bit in order. -/
def crc15 (bits : BitSeq) : BitVec 15 := bits.foldl crcStep Config.crcInit

/-- CRC.INIT (R110). -/
def execCrcInit (s : State) : Host.Outcome State Fault Refusal :=
  .next (s.give (.crc Config.crcInit))

/-- CRC.STEP (R111). -/
def execCrcStep (crc : BitVec 15) (b : Bit) (s : State) : Host.Outcome State Fault Refusal :=
  .next (s.give (.crc (crcStep crc b)))

/-- CRC15 (R112). -/
def execCrc15 (bits : BitSeq) (s : State) : Host.Outcome State Fault Refusal :=
  .next (s.give (.crc (crc15 bits)))

end Sys2Proof.Machine
end

