-- ==== Sys2Proof/Machine/Stuff.lean ====
section
/-! DEFINITION. The bit-stuffing transform (42_stuff.md): STUFF.INIT, STUFF.STEP, STUFF, DESTUFF. One
counting rule for the function, the field boundaries and the stream (R226, R228). -/

namespace Sys2Proof.Machine

/-- The count of equal copied bits since the last insertion, the new bit included (R121 `r`). -/
def runCount (run : Nat) (prev b : Bit) : Nat := if run ≠ 0 ∧ b = prev then run + 1 else 1

/-- STUFF.INIT (R120). -/
def stuffInit : StuffState where
  run := 0
  prev := 0
  out := []
  ins := []

/-- STUFF.STEP (R121), sequentially: the recorded index is the length of the output after the copied
bit (90_conflicts.md C9). -/
def stuffStep (st : StuffState) (b : Bit) : StuffState :=
  let r := runCount st.run st.prev b
  let out := st.out ++ [b]
  if r = Config.stuffLen then
    { run := Config.runReset, prev := b, out := out ++ [~~~b], ins := st.ins ++ [out.length] }
  else
    { run := r, prev := b, out := out, ins := st.ins }

/-- The detector after all of `bits` (R122). -/
def stuffRun (bits : BitSeq) : StuffState := bits.foldl stuffStep stuffInit

/-- `stuff(bits)` (R122). -/
def stuff (bits : BitSeq) : StuffResult where
  stuffedBits := (stuffRun bits).out
  insertedPositions := (stuffRun bits).ins

/-- The elements whose index, counted from `i`, is not in `ins`. -/
def dropPositions (ins : List Nat) : Nat → BitSeq → BitSeq
  | _, [] => []
  | i, b :: rest => if i ∈ ins then dropPositions ins (i + 1) rest else b :: dropPositions ins (i + 1) rest

/-- `destuff(s, ins)` (R128). -/
def destuff (s : BitSeq) (ins : List Nat) : BitSeq := dropPositions ins 0 s

/-- `spos(k)` (R141): the stuffed length of the first `k` bits. -/
def spos (u : BitSeq) (k : Nat) : Nat := (stuff (u.take k)).stuffedBits.length

/-- STUFF.INIT (R120). -/
def execStuffInit (s : State) : Host.Outcome State Fault Refusal :=
  .next (s.give (.stuffState stuffInit))

/-- STUFF.STEP (R121); `run >= 5` is outside its operands (R121, U16). -/
def execStuffStep (run : Nat) (prev : Bit) (out : BitSeq) (ins : List Nat) (b : Bit) (s : State) :
    Host.Outcome State Fault Refusal :=
  if run ≤ 4 then .next (s.give (.stuffState (stuffStep ⟨run, prev, out, ins⟩ b)))
  else .refused (.stuffRunOutOfRange run)

/-- STUFF (R122). -/
def execStuff (bits : BitSeq) (s : State) : Host.Outcome State Fault Refusal :=
  .next (s.give (.stuffed (stuff bits)))

/-- DESTUFF (R128). -/
def execDestuff (stuffedBits : BitSeq) (ins : List Nat) (s : State) : Host.Outcome State Fault Refusal :=
  .next (s.give (.bits (destuff stuffedBits ins)))

end Sys2Proof.Machine
end

