-- ==== Sys2Proof/Machine/Assemble.lean ====
section
/-! DEFINITION. The frame assembler at the function level (43_assemble.md): VALIDATE and `assemble`. -/

namespace Sys2Proof.Machine

/-- VALIDATE (R135) under a pad policy: the first cause in the order of R195, or none. -/
def validateUnder (policy : Config.PadPolicy) (d : Descriptor) : Option EncodeError :=
  if Config.idMax < d.identifier then some (.invalidIdentifier d.identifier)
  else if Config.dlcMax < d.dlc then some (.invalidDlc d.dlc)
  else match d.dataBytes.findIdx? (Config.byteMax < ·) with
    | some k => some (.invalidDataByte k)
    | none =>
      if policy = .reject ∧ d.dataBytes.length < d.dlc then
        some (.insufficientDataBytes d.dataBytes.length d.dlc)
      else none

/-- VALIDATE of this hardware (R135, `PAD_POLICY = ZERO_PAD`). -/
def validate (d : Descriptor) : Option EncodeError := validateUnder Config.padPolicy d

/-- `used` (R136): the first `dlc` bytes, zero padded. -/
def usedBytes (d : Descriptor) : List Nat := (List.range d.dlc).map (dataByte d.dataBytes)

/-- `U` (R137). Every `intToBits` of R137 is within its precondition once VALIDATE has accepted (R101),
so the bits are taken without a test. -/
def preCrc (d : Descriptor) : BitSeq :=
  concatBits
    [ [Config.sofBit],
      msbFirst Config.idW d.identifier,
      [BitVec.ofBool d.remoteRequest],
      [Config.ideBit],
      [Config.r0Bit],
      msbFirst Config.dlcW d.dlc,
      concatBits ((usedBytes d).map (msbFirst Config.byteW)) ]

/-- `bits` (R140), from the stuffed pre-CRC sequence and the CRC. -/
def frameBits (stuffed : BitSeq) (crc : BitVec 15) : BitSeq :=
  concatBits
    [ stuffed,
      msbFirst Config.crcW crc.toNat,
      [Config.crcDelBit],
      [Config.ackBit],
      [Config.ackDelBit],
      List.replicate Config.eofLen Config.eofBit ]

/-- The nine ranges of R142. -/
def fieldRangesOf (u : BitSeq) : List FieldRange :=
  let n := u.length
  let m := spos u n
  [ ⟨.startOfFrame, 0, spos u 1⟩,
    ⟨.arbitration, spos u 1, spos u 13⟩,
    ⟨.control, spos u 13, spos u 19⟩,
    ⟨.data, spos u 19, m⟩,
    ⟨.crc, m, m + 15⟩,
    ⟨.crcDelimiter, m + 15, m + 16⟩,
    ⟨.ackSlot, m + 16, m + 17⟩,
    ⟨.ackDelimiter, m + 17, m + 18⟩,
    ⟨.endOfFrame, m + 18, m + 25⟩ ]

/-- The twelve ranges of R143. -/
def subRangesOf (u : BitSeq) : List SubRange :=
  let n := u.length
  let m := spos u n
  [ ⟨.sof, 0, spos u 1⟩,
    ⟨.id, spos u 1, spos u 12⟩,
    ⟨.rtr, spos u 12, spos u 13⟩,
    ⟨.ide, spos u 13, spos u 14⟩,
    ⟨.r0, spos u 14, spos u 15⟩,
    ⟨.dlc, spos u 15, spos u 19⟩,
    ⟨.data, spos u 19, m⟩,
    ⟨.crc, m, m + 15⟩,
    ⟨.crcDel, m + 15, m + 16⟩,
    ⟨.ack, m + 16, m + 17⟩,
    ⟨.ackDel, m + 17, m + 18⟩,
    ⟨.eof, m + 18, m + 25⟩ ]

/-- The construction of R136 to R144, for a descriptor VALIDATE has accepted. -/
def construct (d : Descriptor) : FrameResult :=
  let u := preCrc d
  { bits := frameBits (stuff u).stuffedBits (crc15 u)
    fieldRanges := fieldRangesOf u
    insertedPositions := (stuff u).insertedPositions
    subRanges := subRangesOf u }

/-- `assemble` (43_assemble.md section 1): VALIDATE, then the construction if no error was raised. -/
def assemble (d : Descriptor) : Except EncodeError FrameResult :=
  match validate d with
  | some e => .error e
  | none => .ok (construct d)

/-- A call of `assemble` gives its result or its error, and nothing else (R196, R197). -/
def State.giveFrame (s : State) (d : Descriptor) : State :=
  match assemble d with
  | .ok r => s.give (.frame r)
  | .error e => s.give (.error e)

/-- VALIDATE (R135). -/
def execValidate (d : Descriptor) (s : State) : Host.Outcome State Fault Refusal :=
  match validate d with
  | none => .next (s.give .accepted)
  | some e => .next (s.give (.error e))

end Sys2Proof.Machine
end

