-- ==== Sys2Proof/Machine/Ops.lean ====
section
/-! DEFINITION. The shared operations of the port level (44_stream.md, 60_exceptions.md): the states that
have no step, advancing, emitting a beat, raising an error and returning from it, starting a frame. -/

namespace Sys2Proof.Machine

/-- `PhLen(ph)` (R175); 0 for the reserved codes 12 to 15 (R78), which have no bit to emit. -/
def phLen (ph : BitVec 4) (dlc : BitVec 4) : Nat :=
  match ph.toNat with
  | 0 => 1
  | 1 => 11
  | 2 => 1
  | 3 => 1
  | 4 => 1
  | 5 => 4
  | 6 => 8 * dlc.toNat
  | 7 => 15
  | 8 => 1
  | 9 => 1
  | 10 => 1
  | 11 => 7
  | _ => 0

/-- `Advance(ph, ix, dlc)` (R175): the position and the mode after the bit at `(ph, ix)`. -/
def advance (ph : BitVec 4) (ix : BitVec 6) (dlc : BitVec 4) : BitVec 4 × BitVec 6 × BitVec 2 :=
  if ix.toNat + 1 < phLen ph dlc then (ph, ix + 1, modeRun)
  else if ph = 11 then (0, 0, modeIdle)
  else if ph = 5 ∧ dlc = 0 then (7, 0, modeRun)
  else (ph + 1, 0, modeRun)

/-- The states that have no step (U16, R42), each under its name. Fields that R79 marks don't-care for
the selected operation (`ph` in IDLE, ERR and on a stuff beat; `sp` in IDLE and ERR) are not tested. -/
def State.stuck? (s : State) : Option Fault :=
  if s.mode = 3 then some .modeThree
  else if s.mode ≠ modeErr ∧ s.ecode ≠ 0 then some .errorCodeOutsideErr
  else if 5 ≤ s.run.toNat then some .runOutOfRange
  else if s.mode = modeRun ∧ 8 < s.dDlc then some .latchedDlcOutOfRange
  else if s.mode = modeRun ∧ s.sp = 0 ∧ phLen s.ph s.dDlc ≤ s.ix.toNat then some .positionOutOfPhase
  else none

/-- A port-level operation in a state that has a step. -/
def State.unlessStuck (s : State) (t : State) : Host.Outcome State Fault Refusal :=
  match s.stuck? with
  | some f => .fault f
  | none => .next t

/-- One beat is transferred (R29): it is the next one of the response stream. -/
def State.transfer (s : State) (b : Beat) : State := { s with sent := s.sent ++ [b] }

/-- CRC.STEP and STUFF.STEP as embedded in a pre-CRC beat (R161); the other phases write none of
`crc`, `run`, `prev`, `sp`. -/
def State.feed (s : State) (v : Bit) : State :=
  if isPreCrc s.ph then
    let r := runCount s.run.toNat s.prev v
    if r = Config.stuffLen then
      { s with crc := crcStep s.crc v, prev := v, run := BitVec.ofNat 3 Config.runReset, sp := 1 }
    else
      { s with crc := crcStep s.crc v, prev := v, run := BitVec.ofNat 3 r }
  else s

/-- The position moves on by one bit (R161, R175). -/
def State.advancePosition (s : State) : State :=
  let a := advance s.ph s.ix s.dDlc
  { s with ltag := s.ph, opos := s.opos + 1, ph := a.1, ix := a.2.1, mode := a.2.2 }

/-- The copied-bit beat offered at the position of `s` (R161). -/
def State.copiedBeat (s : State) (v : Bit) : Beat where
  err := 0
  code := 0
  bit := v
  stuff := 0
  field := s.ph
  last := isLastBit s.ph s.ix

/-- `EMIT` (R161) with source bit `v`. -/
def State.emitCopied (s : State) (v : Bit) : State :=
  ((s.transfer (s.copiedBeat v)).feed v).advancePosition

/-- A phase operation (R162 to R173): `EMIT` when `SEL` names the phase and the consumer takes the beat;
nothing changes while it does not (R179). -/
def execPhase (code : BitVec 4) (v : Bit) (s : State) : Host.Outcome State Fault Refusal :=
  if s.mode = modeRun ∧ s.sp = 0 ∧ s.ph = code then
    s.unlessStuck (if s.pins.outReady = 1 then s.emitCopied v else s)
  else .refused .notSelected

/-- The stuff beat offered in `s` (R174). -/
def State.stuffedBeat (s : State) : Beat where
  err := 0
  code := 0
  bit := ~~~s.prev
  stuff := 1
  field := s.ltag
  last := 0

/-- STUFFBEAT's effect (R174). -/
def State.emitStuffed (s : State) : State :=
  { s.transfer s.stuffedBeat with sp := 0, opos := s.opos + 1 }

/-- Raising an error at the port (R196): "`mode <- ERR`, `ecode <- code` and nothing else". -/
def State.raiseError (s : State) (e : EncodeError) : State :=
  { s with mode := modeErr, ecode := e.code }

/-- The error beat offered in `s` (R176). -/
def State.errorBeat (s : State) : Beat where
  err := 1
  code := s.ecode
  bit := 0
  stuff := 0
  field := 0
  last := 1

/-- The return from an error (R176, R198): the error beat is taken and the block is in IDLE again. -/
def State.returnFromError (s : State) : State :=
  { s.transfer s.errorBeat with mode := modeIdle, ecode := 0 }

/-- The latching and initialising half of ACCEPT (R160, "else" branch): CRC.INIT and STUFF.INIT are
part of it, `prev` is not written. -/
def State.startFrame (s : State) (c : Command) : State :=
  { s with
    dId := c.id.extractLsb' 0 11
    dRtr := c.rtr
    dDlc := c.dlc
    dData := paddedData c.nbytes c.data
    crc := Config.crcInit
    run := 0
    sp := 0
    ph := 0
    ix := 0
    ltag := 0
    opos := 0
    ecode := 0
    mode := modeRun }

/-- ACCEPT of a command in IDLE (R160): VALIDATE on the descriptor it stands for, then raise or start. -/
def State.acceptCommand (s : State) (c : Command) : State :=
  match validate (descriptorOf c) with
  | some e => s.raiseError e
  | none => s.startFrame c

/-- A command word offered at the command port (R160, U19): accepted in IDLE; "ignored (the command is
not accepted and not queued)" in every other mode. -/
def offerCommand (c : Command) (s : State) : Host.Outcome State Fault Refusal :=
  s.unlessStuck (if s.mode = modeIdle then s.acceptCommand c else s)

/-- The beat on the response stream in `s` (R29), from the outputs R38 names; none while
`out_valid = 0`, where the outputs are unspecified and nothing may read them (R30, D32). In a state that U16
and R78 leave without meaning (`mode = 3`; RUN with `ph` in 12..15 or `ix` beyond the phase) the spec gives
no beat: the copied-bit beat named here, with bit 0 for `ph` in 12..15, is the model's choice (DESIGN CHOICE,
unsafe for a claim that reads it, log entry 19). -/
def State.offered (s : State) : Option Beat :=
  if s.outValid = 0 then none
  else if s.outErr = 1 then
    some { err := 1, code := s.ecode, bit := 0, stuff := 0, field := 0, last := s.outLast }
  else if s.outStuff = 1 then
    some { err := 0, code := 0, bit := ~~~s.prev, stuff := 1, field := s.ltag, last := s.outLast }
  else
    let v : Bit := match s.ph.toNat with
      | 1 => s.idBit
      | 2 => s.dRtr
      | 5 => s.dlcBit
      | 6 => s.dataBit
      | 7 => s.crcBit
      | 8 => Config.crcDelBit
      | 9 => Config.ackBit
      | 10 => Config.ackDelBit
      | 11 => Config.eofBit
      | _ => 0
    some { err := 0, code := 0, bit := v, stuff := 0, field := s.ph, last := s.outLast }

/-- Every register takes its reset value (R220, R41). The pins, the calls and the beats already
transferred are not registers ("the beats already transferred stay transferred", R221). -/
def State.resetRegisters (s : State) : State :=
  { State.reset with
    pins := s.pins
    future := s.future
    calls := s.calls
    sent := s.sent
    returned := s.returned }

/-- After an edge the environment sets the input ports for the next one; without a plan the levels are
held (log entry 4). -/
def State.nextPins (s : State) : State :=
  match s.future with
  | [] => s
  | p :: rest => { s with pins := p, future := rest }

end Sys2Proof.Machine
end

