-- ==== Sys2Proof/Machine/Commands.lean ====
section
/-! DEFINITION. The operations a command word selects (30_encoding.md R73; 43_assemble.md R145, R146;
60_exceptions.md R191, R192), and the calls of `assemble`. -/

namespace Sys2Proof.Machine

/-- ENC.DATA (R145): the call gives the whole frame result; the command word at the port starts a
frame, whose beats the sequencer then emits (R181 binds the two). -/
def execEncData (form : EncForm) (s : State) : Host.Outcome State Fault Refusal :=
  match form with
  | .call identifier dlc dataBytes => .next (s.giveFrame ⟨identifier, dlc, dataBytes, false⟩)
  | .command nbytes dlc id data => offerCommand ⟨nbytes, dlc, 0, id, data⟩ s

/-- ENC.REMOTE (R146): as ENC.DATA with the RTR bit 1; the data field is not suppressed. -/
def execEncRemote (form : EncForm) (s : State) : Host.Outcome State Fault Refusal :=
  match form with
  | .call identifier dlc dataBytes => .next (s.giveFrame ⟨identifier, dlc, dataBytes, true⟩)
  | .command nbytes dlc id data => offerCommand ⟨nbytes, dlc, 1, id, data⟩ s

/-- ILLEGAL.ID (R191): the command is offered, and VALIDATE inside ACCEPT raises code 1. -/
def execIllegalId (cmd : Command) (s : State) : Host.Outcome State Fault Refusal :=
  offerCommand cmd s

/-- ILLEGAL.DLC (R192): the command is offered, and VALIDATE inside ACCEPT raises code 2. -/
def execIllegalDlc (cmd : Command) (s : State) : Host.Outcome State Fault Refusal :=
  offerCommand cmd s

end Sys2Proof.Machine
end

