-- ==== Sys2Proof/Machine/Stream.lean ====
section
/-! DEFINITION. The sequencer operations (44_stream.md): ACCEPT, the twelve phases, STUFFBEAT, ERRBEAT. -/

namespace Sys2Proof.Machine

/-- ACCEPT (R160) on the command at the pins; nothing changes while none is offered (R178). -/
def execAccept (s : State) : Host.Outcome State Fault Refusal :=
  if s.mode = modeIdle then
    s.unlessStuck (if s.pins.cmdValid = 1 then s.acceptCommand s.pins.cmd else s)
  else .refused .notSelected

/-- PH.SOF (R162). -/
def execPhSof (s : State) : Host.Outcome State Fault Refusal := execPhase 0 Config.sofBit s

/-- PH.ID (R163). -/
def execPhId (s : State) : Host.Outcome State Fault Refusal := execPhase 1 s.idBit s

/-- PH.RTR (R164). -/
def execPhRtr (s : State) : Host.Outcome State Fault Refusal := execPhase 2 s.dRtr s

/-- PH.IDE (R165). -/
def execPhIde (s : State) : Host.Outcome State Fault Refusal := execPhase 3 Config.ideBit s

/-- PH.R0 (R166). -/
def execPhR0 (s : State) : Host.Outcome State Fault Refusal := execPhase 4 Config.r0Bit s

/-- PH.DLC (R167). -/
def execPhDlc (s : State) : Host.Outcome State Fault Refusal := execPhase 5 s.dlcBit s

/-- PH.DATA (R168). -/
def execPhData (s : State) : Host.Outcome State Fault Refusal := execPhase 6 s.dataBit s

/-- PH.CRC (R169). -/
def execPhCrc (s : State) : Host.Outcome State Fault Refusal := execPhase 7 s.crcBit s

/-- PH.CRCDEL (R170). -/
def execPhCrcDel (s : State) : Host.Outcome State Fault Refusal := execPhase 8 Config.crcDelBit s

/-- PH.ACK (R171). -/
def execPhAck (s : State) : Host.Outcome State Fault Refusal := execPhase 9 Config.ackBit s

/-- PH.ACKDEL (R172). -/
def execPhAckDel (s : State) : Host.Outcome State Fault Refusal := execPhase 10 Config.ackDelBit s

/-- PH.EOF (R173). -/
def execPhEof (s : State) : Host.Outcome State Fault Refusal := execPhase 11 Config.eofBit s

/-- STUFFBEAT (R174), with priority over the phase operation (R180). -/
def execStuffBeat (s : State) : Host.Outcome State Fault Refusal :=
  if s.mode = modeRun ∧ s.sp = 1 then
    s.unlessStuck (if s.pins.outReady = 1 then s.emitStuffed else s)
  else .refused .notSelected

/-- ERRBEAT (R176). -/
def execErrBeat (s : State) : Host.Outcome State Fault Refusal :=
  if s.mode = modeErr then
    s.unlessStuck (if s.pins.outReady = 1 then s.returnFromError else s)
  else .refused .notSelected

end Sys2Proof.Machine
end

