-- ==== Sys2Proof/Machine/Dispatch.lean ====
section
/-! DEFINITION. One arm per operation of the opcode table. -/

namespace Sys2Proof.Machine

def exec (i : Instr) (s : State) : Host.Outcome State Fault Refusal :=
  match i with
  | .encData form => Sys2Proof.Machine.execEncData form s
  | .encRemote form => Sys2Proof.Machine.execEncRemote form s
  | .illegalId cmd => Sys2Proof.Machine.execIllegalId cmd s
  | .illegalDlc cmd => Sys2Proof.Machine.execIllegalDlc cmd s
  | .accept => Sys2Proof.Machine.execAccept s
  | .phSof => Sys2Proof.Machine.execPhSof s
  | .phId => Sys2Proof.Machine.execPhId s
  | .phRtr => Sys2Proof.Machine.execPhRtr s
  | .phIde => Sys2Proof.Machine.execPhIde s
  | .phR0 => Sys2Proof.Machine.execPhR0 s
  | .phDlc => Sys2Proof.Machine.execPhDlc s
  | .phData => Sys2Proof.Machine.execPhData s
  | .phCrc => Sys2Proof.Machine.execPhCrc s
  | .phCrcDel => Sys2Proof.Machine.execPhCrcDel s
  | .phAck => Sys2Proof.Machine.execPhAck s
  | .phAckDel => Sys2Proof.Machine.execPhAckDel s
  | .phEof => Sys2Proof.Machine.execPhEof s
  | .stuffBeat => Sys2Proof.Machine.execStuffBeat s
  | .errBeat => Sys2Proof.Machine.execErrBeat s
  | .int2bits value width => Sys2Proof.Machine.execInt2Bits value width s
  | .bytes2bits bytes => Sys2Proof.Machine.execBytes2Bits bytes s
  | .concat seqs => Sys2Proof.Machine.execConcat seqs s
  | .bits2int bits => Sys2Proof.Machine.execBits2Int bits s
  | .crcInit => Sys2Proof.Machine.execCrcInit s
  | .crcStep crc b => Sys2Proof.Machine.execCrcStep crc b s
  | .crc15 bits => Sys2Proof.Machine.execCrc15 bits s
  | .stuffInit => Sys2Proof.Machine.execStuffInit s
  | .stuffStep run prev out ins b => Sys2Proof.Machine.execStuffStep run prev out ins b s
  | .stuff bits => Sys2Proof.Machine.execStuff bits s
  | .destuff stuffedBits ins => Sys2Proof.Machine.execDestuff stuffedBits ins s
  | .validate d => Sys2Proof.Machine.execValidate d s

end Sys2Proof.Machine
end

