-- ==== Sys2Proof/Machine/Step.lean ====
section
/-! DEFINITION. One step of the machine: a waiting call of a function-level operation, or one rising edge
of `clk` (10_state.md R27; 30_encoding.md R79; 70_reset_and_hazards.md R220). -/

namespace Sys2Proof.Machine

/-- After the operation of an edge the environment sets the pins for the next one. -/
def afterEdge : Host.Outcome State Fault Refusal → Host.Outcome State Fault Refusal
  | .next s => .next s.nextPins
  | .fault f => .fault f
  | .refused r => .refused r

/-- One rising edge of `clk`: `rst = 1` overrides everything (R220); otherwise the operation that `SEL`
selects (R79). -/
def edge (s : State) : Host.Outcome State Fault Refusal :=
  if s.pins.rst = 1 then .next s.resetRegisters.nextPins
  else match decode (.select s.select) with
    | .ok i => afterEdge (exec i s)
    | .error e => .fault (.unreachableSelect e)

/-- One step. A waiting call is evaluated first; it is no clock edge, so the pins stay (log entry 5). -/
def step (s : State) : Host.Outcome State Fault Refusal :=
  match s.calls with
  | c :: rest => exec c.toInstr { s with calls := rest }
  | [] => edge s

/-- `s` with the command word `w` offered at the command port and the block in IDLE, so that the coming
edge accepts it. IDLE has `ecode = 0` (R37). -/
def State.offering (s : State) (w : BitVec 89) : State :=
  { s with
    mode := modeIdle
    ecode := 0
    calls := []
    pins := { s.pins with rst := 0, cmdValid := 1, cmd := Command.ofWord w } }

/-- `s` with the selection word `w` in its registers, a command offered and the consumer ready, so that
the coming edge performs the selected operation. The position and the latched dlc are moved only where
the phase has no bit there (R33; PH.DATA is "never selected when `d_dlc = 0`", R168). -/
def State.selecting (s : State) (w : BitVec 7) : State :=
  let mode := w.extractLsb' 5 2
  let sp := w.extractLsb' 4 1
  let ph := w.extractLsb' 0 4
  let due := mode = modeRun ∧ sp = 0
  let dlc := if due ∧ ph = 6 ∧ s.dDlc = 0 then 1 else s.dDlc
  { s with
    mode := mode
    sp := sp
    ph := ph
    ecode := if mode = modeErr then s.ecode else 0
    dDlc := dlc
    ix := if due ∧ phLen ph dlc ≤ s.ix.toNat then 0 else s.ix
    calls := []
    pins := { s.pins with rst := 0, cmdValid := 1, outReady := 1 } }

/-- The word of `nbits` bits placed where the step takes its next operation from: a command word at the
command port, a selection word in the registers `SEL` is made of (log entry 2). The function-level
operations have no word (R70). -/
def State.withFetchWord (s : State) (nbits w : Nat) : State :=
  let n := (nbits + 7) / 8
  if n = 12 then s.offering (BitVec.ofNat 89 w)
  else if n = 1 then s.selecting (BitVec.ofNat 7 w)
  else s

end Sys2Proof.Machine
end

