-- ==== Sys2Proof/Safety.lean ====
section
/-! DEFINITION. What counts as a right run, in the terms the claims use: the response a frame result stands
for (44_stream.md R181), the state invariants of 10_state.md R42, and the invariant that ties the
registers of a frame in progress to `assemble` (R181). Nothing here is part of the machine. -/

namespace Sys2Proof.Machine

/-- The code of the sub-range that contains position `p` (R181). -/
def FrameResult.fieldAt (r : FrameResult) (p : Nat) : BitVec 4 :=
  match r.subRanges.find? (fun x => x.start ≤ p && p < x.stop) with
  | some x => x.field.code
  | none => 0

/-- Beat number `p` of the response to a valid command (R181). -/
def FrameResult.beatAt (r : FrameResult) (p : Nat) : Beat where
  err := 0
  code := 0
  bit := r.bits.getD p 0
  stuff := if p ∈ r.insertedPositions then 1 else 0
  field := r.fieldAt p
  last := if p + 1 = r.bits.length then 1 else 0

/-- The whole response to a valid command: "exactly `len(R.bits)` beats" (R181). -/
def FrameResult.response (r : FrameResult) : List Beat :=
  (List.range r.bits.length).map r.beatAt

/-- The response to an invalid command: one error beat (R176, R181). -/
def EncodeError.response (e : EncodeError) : List Beat :=
  [{ err := 1, code := e.code, bit := 0, stuff := 0, field := 0, last := 1 }]

/-- The descriptor the latch stands for: all eight lanes as supplied bytes (R31, R54). -/
def State.latched (s : State) : Descriptor where
  identifier := s.dId.toNat
  dlc := s.dDlc.toNat
  dataBytes := (List.range 8).map fun k => (lane s.dData k).toNat
  remoteRequest := s.dRtr == 1

/-- The position in `U` at which the field of a pre-CRC phase begins (R58); `len(U)` from phase 7 on. -/
def phaseStart (ph : BitVec 4) (dlc : BitVec 4) : Nat :=
  match ph.toNat with
  | 0 => 0
  | 1 => 1
  | 2 => 12
  | 3 => 13
  | 4 => 14
  | 5 => 15
  | 6 => 19
  | _ => 19 + 8 * dlc.toNat

/-- How many bits of `U` have been copied to the stream. -/
def State.copied (s : State) : Nat :=
  if isPreCrc s.ph then phaseStart s.ph s.dDlc + s.ix.toNat else 19 + 8 * s.dDlc.toNat

/-- How many bits after the stuffed part have been emitted (R59). -/
def State.tailEmitted (s : State) : Nat :=
  match s.ph.toNat with
  | 7 => s.ix.toNat
  | 8 => 15
  | 9 => 16
  | 10 => 17
  | 11 => 18 + s.ix.toNat
  | _ => 0

/-- A frame in progress is on the track of `assemble`: with `U` the pre-CRC sequence of the latched
descriptor, the CRC register and the detector have seen exactly the bits of `U` copied so far, `opos` is
the position in `bits`, a pending stuff beat is the one the response has there, and the beats sent since
the frame began, after `base`, are the first `opos` beats of the response. -/
structure State.Tracks (base : List Beat) (s : State) : Prop where
  mode_run : s.mode = modeRun
  ecode_zero : s.ecode = 0
  ph_le : s.ph ≤ 11
  ix_lt : s.ix.toNat < phLen s.ph s.dDlc
  crc_eq : s.crc = crc15 ((preCrc s.latched).take s.copied)
  run_eq : s.run.toNat = (stuffRun ((preCrc s.latched).take s.copied)).run
  prev_eq : s.run ≠ 0 → s.prev = (stuffRun ((preCrc s.latched).take s.copied)).prev
  opos_eq : s.opos.toNat + s.sp.toNat
    = (stuffRun ((preCrc s.latched).take s.copied)).out.length + s.tailEmitted
  pending : s.sp = 1 → s.run = 0 ∧ s.ltag ≤ 6
    ∧ (construct s.latched).response[s.opos.toNat]? = some s.stuffedBeat
    ∧ ∃ b : Beat, s.sent.getLast? = some b ∧ b.err = 0 ∧ b.stuff = 0 ∧ b.field = s.ltag
  sent_eq : s.sent = base ++ (construct s.latched).response.take s.opos.toNat

/-- Between two transactions, or with an error beat pending: the position is at rest (R41, R177). -/
structure State.AtRest (s : State) : Prop where
  mode_ecode : (s.mode = modeIdle ∧ s.ecode = 0) ∨ (s.mode = modeErr ∧ s.ecode ≠ 0)
  ph_zero : s.ph = 0
  ix_zero : s.ix = 0
  sp_zero : s.sp = 0
  run_le : s.run.toNat ≤ 4

/-- The invariant of the machine: at rest, or a frame in progress that tracks `assemble`; the latched dlc
is legal in both. -/
structure State.Inv (s : State) : Prop where
  dlc_le : s.dDlc ≤ 8
  cases : s.AtRest ∨ ∃ base, s.Tracks base

/-- The state invariants of R42, clause by clause; the last one reads "the last transferred beat" from
the response stream. -/
structure State.Reachable42 (s : State) : Prop where
  mode_le : s.mode = 0 ∨ s.mode = 1 ∨ s.mode = 2
  err_iff : s.mode = modeErr ↔ s.ecode ≠ 0
  dlc_le : s.mode = modeRun → s.dDlc ≤ 8
  ph_le : s.ph ≤ 11
  ix_lt : s.ix.toNat < phLen s.ph s.dDlc
  run_le : s.run.toNat ≤ 4
  sp_run : s.sp = 1 → s.mode = modeRun ∧ s.run = 0
    ∧ ∃ b : Beat, s.sent.getLast? = some b ∧ b.err = 0 ∧ b.stuff = 0 ∧ b.field ≤ 6
  opos_le : s.mode = modeRun → s.opos.toNat ≤ 123
  crc_eq : 7 ≤ s.ph → s.crc = crc15 (preCrc s.latched)

/-- The levels on the input ports at the `j`-th coming edge, the coming one being number 0: the plan,
then its last levels held. -/
def State.pinsAt (s : State) (j : Nat) : Pins :=
  (s.pins :: s.future).getD j ((s.pins :: s.future).getLastD s.pins)

/-- How many of the `k` edges after the coming one have `out_ready = 1`. -/
def State.readyEdges (s : State) (k : Nat) : Nat :=
  (List.range k).countP fun j => (s.pinsAt (j + 1)).outReady == 1

end Sys2Proof.Machine
end

