-- ==== Sys2Proof/Certificates/Slice0/Obligations.lean ====
section
/-! DEFINITION. The statements about the model, each a `Prop` for the provers. They are written from the
numbered rules of spec/; a clause that is the model's own choice names its log entry. -/

open Sys2Proof Sys2Proof.Machine

namespace Sys2Proof.Claims

/-- Bit `i` of a natural number, as a bit. -/
def natBit (n i : Nat) : Bit := BitVec.ofNat 1 ((n >>> i) &&& 1)

/-- The fifteen bits of a CRC value, bit 14 first (R114). -/
def crcBits (c : BitVec 15) : BitSeq := (List.range 15).map fun i => BitVec.ofBool (c.getLsbD (14 - i))

/-- `s` after a function-level operation has returned `v`: nothing else differs (R26). -/
def returning (s : State) (v : Returned) : State := { s with returned := v }

/-- A maximal run of equal bits with one complementary bit after its 5th, 10th, 15th, ... bit (R123). -/
def stuffedRun (run : BitSeq) : BitSeq :=
  (run.zipIdx.map fun p => if (p.2 + 1) % 5 = 0 then [p.1, ~~~p.1] else [p.1]).flatten

/-- Consecutive half-open intervals that begin at `a` and end at `n` (R148). -/
def Tiles : Nat → List (Nat × Nat) → Nat → Prop
  | a, [], n => a = n
  | a, (x, y) :: rest, n => a = x ∧ x ≤ y ∧ Tiles y rest n

/-- `PhLen` as the list of R175. -/
def phLenList (dlc : Nat) : List Nat := [1, 11, 1, 1, 1, 4, 8 * dlc, 15, 1, 1, 1, 7]

/-- The registers an `EMIT` writes, from the pseudocode of R161 and R175, for source bit `v`. -/
def afterCopied (s : State) (v : Bit) : State :=
  let pre := s.ph.toNat ≤ 6
  let r := if s.run ≠ 0 ∧ v = s.prev then s.run.toNat + 1 else 1
  let shifted := (s.crc <<< 1) ||| v.setWidth 15
  let more := s.ix.toNat + 1 < (phLenList s.dDlc.toNat).getD s.ph.toNat 0
  { s with
    sent := s.sent ++ [⟨0, 0, v, 0, s.ph, if s.ph = 11 ∧ s.ix = 6 then 1 else 0⟩]
    crc := if pre then (if s.crc.getLsbD 14 then shifted ^^^ 0x4599 else shifted) else s.crc
    prev := if pre then v else s.prev
    run := if pre then (if r = 5 then 0 else BitVec.ofNat 3 r) else s.run
    sp := if pre ∧ r = 5 then 1 else s.sp
    ltag := s.ph
    opos := s.opos + 1
    ph := if more then s.ph else if s.ph = 11 then 0 else if s.ph = 5 ∧ s.dDlc = 0 then 7 else s.ph + 1
    ix := if more then s.ix + 1 else 0
    mode := if ¬ more ∧ s.ph = 11 then 0 else 1 }

/-- The registers an ACCEPT of a valid command writes, from the pseudocode of R160. -/
def started (s : State) (c : Command) : State :=
  { s with
    dId := BitVec.ofNat 11 c.id.toNat
    dRtr := c.rtr
    dDlc := c.dlc
    dData := paddedData c.nbytes c.data
    crc := 0
    run := 0
    sp := 0
    ph := 0
    ix := 0
    ltag := 0
    opos := 0
    ecode := 0
    mode := 1 }

/-- Minimum and maximum of inserted bits per dlc (table of R82). -/
def insertionBounds : List (Nat × Nat) :=
  [(1, 3), (1, 4), (0, 6), (0, 8), (0, 9), (0, 11), (0, 12), (0, 14), (0, 16)]

end Sys2Proof.Claims

open Sys2Proof.Claims

/-! ### Bit vector utilities (40_bitvec.md) -/

/-- R100. -/
def Obligations.Int2BitsListsTheBitsMsbFirst : Prop :=
  ∀ (s : State) (value width : Nat), value < 2 ^ width →
    ∃ b : BitSeq, exec (.int2bits value width) s = .next (returning s (.bits b)) ∧
      b.length = width ∧ ∀ i, i < width → b[i]? = some (natBit value (width - 1 - i))

/-- R101: refused outside the precondition, which `assemble` never leaves. -/
def Obligations.Int2BitsRefusesOutsideItsWidth : Prop :=
  (∀ (s : State) (value width : Nat), 2 ^ width ≤ value →
    exec (.int2bits value width) s = .refused (.valueOutOfWidth value width)) ∧
  (∀ d : Descriptor, validate d = none →
    d.identifier < 2 ^ 11 ∧ d.dlc < 2 ^ 4 ∧ (∀ b ∈ usedBytes d, b < 2 ^ 8) ∧
    (crc15 (preCrc d)).toNat < 2 ^ 15)

/-- R102. -/
def Obligations.Bytes2BitsListsEachByteMsbFirst : Prop :=
  (∀ (s : State) (bytes : List Nat), (∀ x ∈ bytes, x ≤ 255) →
    ∃ b : BitSeq, exec (.bytes2bits bytes) s = .next (returning s (.bits b)) ∧
      b.length = 8 * bytes.length ∧
      ∀ i, i < 8 * bytes.length → b[i]? = some (natBit (bytes.getD (i / 8) 0) (7 - i % 8))) ∧
  (∀ (s : State) (bytes : List Nat), (∃ x ∈ bytes, 255 < x) →
    exec (.bytes2bits bytes) s = .refused (.byteOutOfRange bytes)) ∧
  (∀ d : Descriptor, validate d = none → ∀ x ∈ usedBytes d, x ≤ 255)

/-- R103. -/
def Obligations.ConcatPlacesEachSequenceInOrder : Prop :=
  ∀ (s : State) (seqs : List BitSeq),
    ∃ r : BitSeq, exec (.concat seqs) s = .next (returning s (.bits r)) ∧
      r.length = (seqs.map List.length).sum ∧
      ∀ (j : Nat) (q : BitSeq), seqs[j]? = some q → ∀ k, k < q.length →
        r[((seqs.take j).map List.length).sum + k]? = q[k]?

/-- R104: the sum, and the two inverse laws. -/
def Obligations.Bits2IntInvertsInt2Bits : Prop :=
  (∀ (s : State) (b : BitSeq), exec (.bits2int b) s = .next (returning s (.number
    ((List.range b.length).map fun i => (b.getD i 0).toNat * 2 ^ (b.length - 1 - i)).sum))) ∧
  (∀ (s : State) (value width : Nat), value < 2 ^ width →
    ∃ b : BitSeq, exec (.int2bits value width) s = .next (returning s (.bits b)) ∧
      exec (.bits2int b) s = .next (returning s (.number value))) ∧
  (∀ (s : State) (b : BitSeq),
    ∃ n : Nat, exec (.bits2int b) s = .next (returning s (.number n)) ∧
      exec (.int2bits n b.length) s = .next (returning s (.bits b)))

/-! ### CRC (41_crc15.md) -/

/-- R110 and R120: the start values of the CRC register and of the detector, and that a first bit counts 1. -/
def Obligations.InitOperationsGiveTheStartValues : Prop :=
  (∀ s : State, exec .crcInit s = .next (returning s (.crc 0))) ∧
  (∀ s : State, exec .stuffInit s = .next (returning s (.stuffState ⟨0, 0, [], []⟩))) ∧
  (∀ (s : State) (b : Bit),
    exec (.stuffStep 0 0 [] [] b) s = .next (returning s (.stuffState ⟨1, b, [b], []⟩)))

/-- R111, bit by bit. -/
def Obligations.CrcStepActsBitByBit : Prop :=
  ∀ (s : State) (crc : BitVec 15) (b : Bit),
    ∃ c : BitVec 15, exec (.crcStep crc b) s = .next (returning s (.crc c)) ∧
      c.getLsbD 0 = (b.getLsbD 0 ^^ crc.getLsbD 14) ∧
      (∀ i ∈ [3, 4, 7, 8, 10, 14], c.getLsbD i = (crc.getLsbD (i - 1) ^^ crc.getLsbD 14)) ∧
      (∀ i ∈ [1, 2, 5, 6, 9, 11, 12, 13], c.getLsbD i = crc.getLsbD (i - 1))

/-- R112: CRC15 is CRC.STEP over the bits in order from 0. -/
def Obligations.Crc15RunsCrcStepOverTheBits : Prop :=
  ∃ f : BitSeq → BitVec 15,
    (∀ (s : State) (bits : BitSeq), exec (.crc15 bits) s = .next (returning s (.crc (f bits)))) ∧
    f [] = 0 ∧
    (∀ (s : State) (bits : BitSeq) (b : Bit),
      exec (.crcStep (f bits) b) s = .next (returning s (.crc (f (bits ++ [b])))))

/-- R113: CRC15 is the remainder of the message polynomial by the generator over GF(2), and the generator
is `x^15` plus the terms of 0x4599. -/
def Obligations.Crc15IsThePolynomialRemainder : Prop :=
  let P : BitSeq → Polynomial (ZMod 2) := fun b =>
    ∑ i : Fin b.length, Polynomial.C ((b.get i).toNat : ZMod 2) * Polynomial.X ^ (b.length - 1 - i.val)
  let G : Polynomial (ZMod 2) :=
    Polynomial.X ^ 15 + Polynomial.X ^ 14 + Polynomial.X ^ 10 + Polynomial.X ^ 8 + Polynomial.X ^ 7 +
      Polynomial.X ^ 4 + Polynomial.X ^ 3 + 1
  G = Polynomial.X ^ 15 + P (crcBits 0x4599) ∧
  ∀ (s : State) (bits : BitSeq), ∃ c : BitVec 15,
    exec (.crc15 bits) s = .next (returning s (.crc c)) ∧ P (crcBits c) = P bits %ₘ G

/-- The consequences R112 and R113 draw: short inputs are their own value, linearity, the generator's own
coefficients give 0, and a message with its shifted remainder appended gives 0. -/
def Obligations.Crc15IsLinearAndSelfChecking : Prop :=
  (∀ bits : BitSeq, bits.length ≤ 15 → (crc15 bits).toNat = bitsToInt bits) ∧
  (∀ (n : Nat) (bits : BitSeq), crc15 (List.replicate n 0 ++ bits) = crc15 bits) ∧
  (∀ a b : BitSeq, a.length = b.length → crc15 (List.zipWith (· ^^^ ·) a b) = crc15 a ^^^ crc15 b) ∧
  crc15 [1, 1, 0, 0, 0, 1, 0, 1, 1, 0, 0, 1, 1, 0, 0, 1] = 0 ∧
  (∀ bits : BitSeq, crc15 (bits ++ crcBits (crc15 (bits ++ List.replicate 15 0))) = 0)

/-! ### Stuffing (42_stuff.md) -/

/-- R121, for every operand R121 admits. -/
def Obligations.StuffStepCopiesAndInserts : Prop :=
  ∀ (s : State) (run : Nat) (prev b : Bit) (out : BitSeq) (ins : List Nat), run ≤ 4 →
    let r := if run ≠ 0 ∧ b = prev then run + 1 else 1
    exec (.stuffStep run prev out ins b) s = .next (returning s (.stuffState
      (if r = 5 then ⟨0, b, out ++ [b, ~~~b], ins ++ [out.length + 1]⟩
       else ⟨r, b, out ++ [b], ins⟩)))

/-- Outside the operands of R121 the model refuses (its choice among those of U16, log entry 8). -/
def Obligations.StuffStepRefusesARunOfFive : Prop :=
  ∀ (s : State) (run : Nat) (prev b : Bit) (out : BitSeq) (ins : List Nat), 5 ≤ run →
    exec (.stuffStep run prev out ins b) s = .refused (.stuffRunOutOfRange run)

/-- R122: STUFF is STUFF.STEP over the bits in order from STUFF.INIT, and never leaves R121's operands. -/
def Obligations.StuffRunsStuffStepOverTheBits : Prop :=
  ∃ f : BitSeq → StuffState,
    (∀ (s : State) (bits : BitSeq),
      exec (.stuff bits) s = .next (returning s (.stuffed ⟨(f bits).out, (f bits).ins⟩))) ∧
    f [] = ⟨0, 0, [], []⟩ ∧
    (∀ (s : State) (bits : BitSeq) (b : Bit), (f bits).run ≤ 4 ∧
      exec (.stuffStep (f bits).run (f bits).prev (f bits).out (f bits).ins b) s
        = .next (returning s (.stuffState (f (bits ++ [b])))))

/-- R123: the closed form over the maximal runs. -/
def Obligations.StuffHasTheClosedFormOverRuns : Prop :=
  ∀ (s : State) (bits : BitSeq),
    ∃ r : StuffResult, exec (.stuff bits) s = .next (returning s (.stuffed r)) ∧
      r.stuffedBits = ((bits.splitBy (· == ·)).map stuffedRun).flatten ∧
      r.insertedPositions.length = ((bits.splitBy (· == ·)).map (·.length / 5)).sum ∧
      r.stuffedBits.length = bits.length + r.insertedPositions.length ∧
      r.insertedPositions.length ≤ bits.length / 5

/-- R124. -/
def Obligations.InsertedPositionsFollowFiveEqualCopies : Prop :=
  ∀ bits : BitSeq,
    let S := (stuff bits).stuffedBits
    let I := (stuff bits).insertedPositions
    I.Pairwise (· < ·) ∧
    (∀ p ∈ I, 5 ≤ p ∧ p < S.length ∧ S[p]? = (S[p - 1]?).map (~~~ ·) ∧
      ∀ q, p - 5 ≤ q → q < p → S[q]? = S[p - 1]? ∧ q ∉ I) ∧
    (∀ p ∈ I, ∀ q ∈ I, p < q → p + 6 ≤ q) ∧
    (S.zipIdx.filter fun x => x.2 ∉ I).map (·.1) = bits

/-- R125. -/
def Obligations.StuffOfAPrefixIsAPrefix : Prop :=
  ∀ (bits : BitSeq) (j : Nat), j ≤ bits.length →
    (stuff (bits.take j)).stuffedBits <+: (stuff bits).stuffedBits ∧
    (stuff (bits.take j)).insertedPositions <+: (stuff bits).insertedPositions ∧
    (0 < j → (stuffRun (bits.take j)).run = 0 →
      (stuff (bits.take j)).insertedPositions.getLast? = some ((stuff (bits.take j)).stuffedBits.length - 1))

/-- R126 (a) to (d): the corrected run-length invariant. -/
def Obligations.StuffedRunsHaveAtMostSixBits : Prop :=
  ∀ bits : BitSeq,
    let S := (stuff bits).stuffedBits
    let I := (stuff bits).insertedPositions
    (∀ i, i + 7 ≤ S.length → ¬ ∀ j, j < 7 → S[i + j]? = S[i]?) ∧
    (∀ i, i + 6 ≤ S.length → (∀ j, j < 6 → S[i + j]? = S[i]?) →
      i ∈ I ∧ (∀ j, 1 ≤ j → j < 6 → i + j ∉ I) ∧ i + 6 ∈ I ∧ S[i + 6]? = (S[i]?).map (~~~ ·)) ∧
    (∀ i, i ∉ I → (i = 0 ∨ S[i - 1]? ≠ S[i]?) → i + 6 ≤ S.length →
      ¬ ∀ j, j < 6 → S[i + j]? = S[i]?) ∧
    (∀ j, j + 5 ≤ bits.length → (∀ k, k < 5 → bits[j + k]? = bits[j]?) →
      (j = 0 ∨ bits[j - 1]? ≠ bits[j]?) → bits[j + 5]? ≠ bits[j]? →
      let p := (stuff (bits.take (j + 5))).stuffedBits.length - 1
      p ∈ I ∧ S[p - 1]? = bits[j]? ∧ S[p]? = (bits[j]?).map (~~~ ·))

/-- R128: DESTUFF removes the given positions, and undoes STUFF. -/
def Obligations.DestuffUndoesStuff : Prop :=
  (∀ (s : State) (b : BitSeq) (ins : List Nat), exec (.destuff b ins) s = .next (returning s
    (.bits ((b.zipIdx.filter fun x => x.2 ∉ ins).map (·.1))))) ∧
  (∀ (s : State) (bits : BitSeq),
    exec (.destuff (stuff bits).stuffedBits (stuff bits).insertedPositions) s
      = .next (returning s (.bits bits)))

/-- R141. -/
def Obligations.StuffedPositionOfAFieldEnd : Prop :=
  ∀ u : BitSeq,
    spos u 0 = 0 ∧ (u ≠ [] → spos u 1 = 1) ∧ spos u u.length = (stuff u).stuffedBits.length ∧
    (∀ k, k ≤ u.length → spos u k = (stuff (u.take k)).stuffedBits.length) ∧
    (∀ k, k < u.length → spos u (k + 1) = spos u k + 1 ∨ spos u (k + 1) = spos u k + 2) ∧
    (∀ k, k ≤ u.length →
      spos u k = k + ((stuff u).insertedPositions.filter (· < spos u k)).length ∧
      spos u k = k + (stuff (u.take k)).insertedPositions.length)

/-! ### Assembler (43_assemble.md, 20_memory.md) -/

/-- R135 and R195: the first cause in order, under this hardware's pad policy and under the other one. -/
def Obligations.ValidateReportsTheFirstCause : Prop :=
  (∀ (s : State) (d : Descriptor), 2047 < d.identifier →
    exec (.validate d) s = .next (returning s (.error (.invalidIdentifier d.identifier)))) ∧
  (∀ (s : State) (d : Descriptor), d.identifier ≤ 2047 → 8 < d.dlc →
    exec (.validate d) s = .next (returning s (.error (.invalidDlc d.dlc)))) ∧
  (∀ (s : State) (d : Descriptor) (k x : Nat), d.identifier ≤ 2047 → d.dlc ≤ 8 →
    d.dataBytes[k]? = some x → 255 < x → (∀ j y, j < k → d.dataBytes[j]? = some y → y ≤ 255) →
    exec (.validate d) s = .next (returning s (.error (.invalidDataByte k)))) ∧
  (∀ (s : State) (d : Descriptor), d.identifier ≤ 2047 → d.dlc ≤ 8 → (∀ x ∈ d.dataBytes, x ≤ 255) →
    exec (.validate d) s = .next (returning s (.accepted))) ∧
  (∀ (d : Descriptor) (e : EncodeError), validateUnder .zeroPad d = some e → validateUnder .reject d = some e) ∧
  (∀ d : Descriptor, validateUnder .zeroPad d = none →
    validateUnder .reject d =
      if d.dataBytes.length < d.dlc then some (.insufficientDataBytes d.dataBytes.length d.dlc) else none)

/-- R58 and R137: every position of `U`, with the padded bytes of R53. -/
def Obligations.UnstuffedSequenceHasTheFieldMap : Prop :=
  ∀ d : Descriptor, validate d = none →
    let u := preCrc d
    u.length = 19 + 8 * d.dlc ∧ u[0]? = some 0 ∧
    (∀ i, i < 11 → u[1 + i]? = some (natBit d.identifier (10 - i))) ∧
    u[12]? = some (if d.remoteRequest then 1 else 0) ∧ u[13]? = some 0 ∧ u[14]? = some 0 ∧
    (∀ i, i < 4 → u[15 + i]? = some (natBit d.dlc (3 - i))) ∧
    (∀ i, i < 8 * d.dlc → u[19 + i]? = some (natBit (d.dataBytes.getD (i / 8) 0) (7 - i % 8)))

/-- R145 and R146 with R137 to R140, R142 and R143: the call of `assemble` gives the whole result, or the
error and nothing else; each top-level range is the union of the sub-ranges that `Top` maps to it. -/
def Obligations.EncodingCallsGiveTheFrame : Prop :=
  ∀ (s : State) (identifier dlc : Nat) (bytes : List Nat) (remote : Bool),
    let i : Instr := if remote then .encRemote (.call identifier dlc bytes) else .encData (.call identifier dlc bytes)
    let d : Descriptor := ⟨identifier, dlc, bytes, remote⟩
    (∀ e, validate d = some e → exec i s = .next (returning s (.error e))) ∧
    (validate d = none →
      ∃ idBits dlcBits dataBits crcField : BitSeq,
        intToBits identifier 11 = some idBits ∧ intToBits dlc 4 = some dlcBits ∧
        bytesToBits ((List.range dlc).map fun k => bytes.getD k 0) = some dataBits ∧
        let u := [0] ++ idBits ++ [if remote then 1 else 0] ++ [0] ++ [0] ++ dlcBits ++ dataBits
        let S := (stuff u).stuffedBits
        let m := S.length
        let p := fun k => (stuff (u.take k)).stuffedBits.length
        intToBits (crc15 u).toNat 15 = some crcField ∧
        let r : FrameResult := {
          bits := S ++ crcField ++ [1] ++ [1] ++ [1] ++ [1, 1, 1, 1, 1, 1, 1]
          insertedPositions := (stuff u).insertedPositions
          fieldRanges := [⟨.startOfFrame, 0, 1⟩, ⟨.arbitration, 1, p 13⟩, ⟨.control, p 13, p 19⟩,
            ⟨.data, p 19, m⟩, ⟨.crc, m, m + 15⟩, ⟨.crcDelimiter, m + 15, m + 16⟩,
            ⟨.ackSlot, m + 16, m + 17⟩, ⟨.ackDelimiter, m + 17, m + 18⟩, ⟨.endOfFrame, m + 18, m + 25⟩]
          subRanges := [⟨.sof, 0, 1⟩, ⟨.id, 1, p 12⟩, ⟨.rtr, p 12, p 13⟩, ⟨.ide, p 13, p 14⟩,
            ⟨.r0, p 14, p 15⟩, ⟨.dlc, p 15, p 19⟩, ⟨.data, p 19, m⟩, ⟨.crc, m, m + 15⟩,
            ⟨.crcDel, m + 15, m + 16⟩, ⟨.ack, m + 16, m + 17⟩, ⟨.ackDel, m + 17, m + 18⟩,
            ⟨.eof, m + 18, m + 25⟩] }
        exec i s = .next (returning s (.frame r)) ∧
        ∀ x ∈ r.fieldRanges, ∀ q, (x.start ≤ q ∧ q < x.stop) ↔
          ∃ y ∈ r.subRanges, y.field.top = x.field ∧ y.start ≤ q ∧ q < y.stop)

/-- R147. -/
def Obligations.FrameLengthCountsTheInsertedBits : Prop :=
  ∀ (d : Descriptor) (r : FrameResult), assemble d = .ok r →
    let k := r.insertedPositions.length
    (preCrc d).length = 19 + 8 * d.dlc ∧
    (stuff (preCrc d)).stuffedBits.length = 19 + 8 * d.dlc + k ∧
    r.bits.length = 44 + 8 * d.dlc + k

/-- R82: the bounds on inserted bits and on the frame length for each dlc, and that every bound is reached. -/
def Obligations.InsertedBitsPerDlcHaveTheTabledBounds : Prop :=
  (∀ (d : Descriptor) (r : FrameResult), assemble d = .ok r →
    ∃ lo hi, insertionBounds[d.dlc]? = some (lo, hi) ∧
      lo ≤ r.insertedPositions.length ∧ r.insertedPositions.length ≤ hi ∧
      44 + 8 * d.dlc + lo ≤ r.bits.length ∧ r.bits.length ≤ 44 + 8 * d.dlc + hi) ∧
  (∀ (dlc lo hi : Nat), insertionBounds[dlc]? = some (lo, hi) →
    ∃ (d e : Descriptor) (r q : FrameResult), d.dlc = dlc ∧ e.dlc = dlc ∧
      assemble d = .ok r ∧ r.insertedPositions.length = lo ∧
      assemble e = .ok q ∧ q.insertedPositions.length = hi)

/-- R148. -/
def Obligations.RangesTileTheFrame : Prop :=
  ∀ (d : Descriptor) (r : FrameResult), assemble d = .ok r →
    Tiles 0 (r.fieldRanges.map fun x => (x.start, x.stop)) r.bits.length ∧
    r.fieldRanges.map (fun x => x.field.index) = [0, 1, 2, 3, 4, 5, 6, 7, 8] ∧
    (∀ x ∈ r.fieldRanges, x.start = x.stop → x.field = .data) ∧
    Tiles 0 (r.subRanges.map fun x => (x.start, x.stop)) r.bits.length ∧
    r.subRanges.map (fun x => x.field.code) = [0, 1, 2, 3, 4, 5, 6, 7, 8, 9, 10, 11] ∧
    (∀ x ∈ r.subRanges, x.start = x.stop → x.field = .data)

/-- R150. -/
def Obligations.InsertedBitBelongsToTheFieldBeforeIt : Prop :=
  ∀ (d : Descriptor) (r : FrameResult), assemble d = .ok r →
    r.fieldRanges.head? = some ⟨.startOfFrame, 0, 1⟩ ∧
    ∀ p ∈ r.insertedPositions, 0 < p ∧ p - 1 ∉ r.insertedPositions ∧
      (∀ x ∈ r.fieldRanges, (x.start ≤ p ∧ p < x.stop) ↔ (x.start ≤ p - 1 ∧ p - 1 < x.stop)) ∧
      (∀ x ∈ r.subRanges, (x.start ≤ p ∧ p < x.stop) ↔ (x.start ≤ p - 1 ∧ p - 1 < x.stop))

/-- R144. -/
def Obligations.UnstuffedSequenceIsRecovered : Prop :=
  ∀ (d : Descriptor) (r : FrameResult), assemble d = .ok r →
    let m := (stuff (preCrc d)).stuffedBits.length
    r.insertedPositions = (stuff (preCrc d)).insertedPositions ∧
    r.bits.take m = (stuff (preCrc d)).stuffedBits ∧
    (∀ p ∈ r.insertedPositions, p < m) ∧
    destuff (r.bits.take m) r.insertedPositions = preCrc d

/-- R149: of the data bytes only the first `dlc`, zero padded, matter. -/
def Obligations.FrameDependsOnUsedBytesOnly : Prop :=
  ∀ (identifier dlc : Nat) (a b : List Nat) (remote : Bool),
    (∀ x ∈ a, x ≤ 255) → (∀ x ∈ b, x ≤ 255) → (∀ k, k < dlc → a.getD k 0 = b.getD k 0) →
    assemble ⟨identifier, dlc, a, remote⟩ = assemble ⟨identifier, dlc, b, remote⟩

/-- R152. -/
def Obligations.EmptyDataFieldIsKept : Prop :=
  ∀ (d : Descriptor) (r : FrameResult), d.dlc = 0 → assemble d = .ok r →
    r.fieldRanges[3]? = some ⟨.data, spos (preCrc d) 19, spos (preCrc d) 19⟩ ∧
    r.subRanges[6]? = some ⟨.data, spos (preCrc d) 19, spos (preCrc d) 19⟩ ∧
    r.fieldRanges.length = 9 ∧ r.subRanges.length = 12 ∧
    (∀ b ∈ r.response, b.field ≠ 6) ∧
    (∀ bytes, (∀ x ∈ bytes, x ≤ 255) → assemble { d with dataBytes := bytes } = .ok r) ∧
    (∀ bytes, (∃ x ∈ bytes, 255 < x) → ∃ k, assemble { d with dataBytes := bytes } = .error (.invalidDataByte k))

/-! ### Encodings (30_encoding.md) -/

/-- R71 and R72: the descriptor of a command word, by arithmetic on the word. -/
def Obligations.CommandWordStandsForItsDescriptor : Prop :=
  ∀ w : BitVec 89,
    let d := descriptorOf (Command.ofWord w)
    d.identifier = w.toNat / 2 ^ 64 % 2 ^ 16 ∧ d.dlc = w.toNat / 2 ^ 81 % 2 ^ 4 ∧
    (d.remoteRequest = true ↔ w.toNat / 2 ^ 80 % 2 = 1) ∧
    d.dataBytes.length = min (w.toNat / 2 ^ 85) 8 ∧
    (∀ k, k < d.dataBytes.length → d.dataBytes[k]? = some (w.toNat / 2 ^ (56 - 8 * k) % 2 ^ 8))

/-- R73: the four outcomes, in order; no word is without one. -/
def Obligations.CommandWordSelectsOneOfFourOperations : Prop :=
  ∀ w : BitVec 89,
    (w.extractLsb' 75 5 ≠ 0 → decodeCommand w = .illegalId (Command.ofWord w)) ∧
    (w.extractLsb' 75 5 = 0 → 8 < w.extractLsb' 81 4 → decodeCommand w = .illegalDlc (Command.ofWord w)) ∧
    (w.extractLsb' 75 5 = 0 → w.extractLsb' 81 4 ≤ 8 → w.getLsbD 80 = false → decodeCommand w =
      .encData (.command (w.extractLsb' 85 4) (w.extractLsb' 81 4) (w.extractLsb' 64 16) (w.extractLsb' 0 64))) ∧
    (w.extractLsb' 75 5 = 0 → w.extractLsb' 81 4 ≤ 8 → w.getLsbD 80 = true → decodeCommand w =
      .encRemote (.command (w.extractLsb' 85 4) (w.extractLsb' 81 4) (w.extractLsb' 64 16) (w.extractLsb' 0 64)))

/-- Decoding inverts encoding on every well-formed operation. -/
def Obligations.DecodeOfEncodeIsTheInstruction : Prop :=
  ∀ i : Instr, i.wellFormed = true → decode (encode i) = .ok i

/-- Encoding inverts decoding on every command word, and every command word decodes to a well-formed
operation. -/
def Obligations.EncodeOfDecodeIsTheCommandWord : Prop :=
  ∀ w : BitVec 89, (decodeCommand w).wellFormed = true ∧ encode (decodeCommand w) = .command w

/-- R79: the selection table. That the patterns R79 calls unreachable decode to an error is the model's
choice (log entry 7), no rule of the spec. -/
def Obligations.SelectionWordSelectsItsOperation : Prop :=
  ∀ (mode : BitVec 2) (sp : Bit) (ph : BitVec 4),
    decodeSelect (mode ++ sp ++ ph) =
      if mode = 0 then .ok .accept
      else if mode = 2 then .ok .errBeat
      else if mode = 3 then .error (.reservedSelect (mode ++ sp ++ ph))
      else if sp = 1 then .ok .stuffBeat
      else match [Instr.phSof, .phId, .phRtr, .phIde, .phR0, .phDlc, .phData, .phCrc, .phCrcDel, .phAck,
          .phAckDel, .phEof][ph.toNat]? with
        | some i => .ok i
        | none => .error (.reservedSelect (mode ++ sp ++ ph))

/-- Words written out from R71 and R79 decode to the operations they stand for. That the two selection words
R79 calls unreachable decode to nothing is the model's choice (log entry 7), no rule of the spec, as is the
layout of the words in bytes (log entry 2). -/
def Obligations.WrittenWordsDecode : Prop :=
  decodeTableWord 96 0x00001230000000000000000 = some (.encData (.command 0 0 0x123 0)) ∧
  decodeTableWord 96 0x0450321dead000000000000 = some (.encRemote (.command 2 2 0x321 0xdead000000000000)) ∧
  decodeTableWord 96 0x00008000000000000000000 = some (.illegalId ⟨0, 0, 0, 0x800, 0⟩) ∧
  decodeTableWord 96 0x01207ff0000000000000000 = some (.illegalDlc ⟨0, 9, 0, 0x7ff, 0⟩) ∧
  decodeTableWord 8 0b0000000 = some .accept ∧
  decodeTableWord 8 0b0100110 = some .phData ∧
  decodeTableWord 8 0b0110101 = some .stuffBeat ∧
  decodeTableWord 8 0b1000000 = some .errBeat ∧
  decodeTableWord 8 0b0101100 = none ∧ decodeTableWord 8 0b1100000 = none

/-! ### The port level (44_stream.md, 60_exceptions.md) -/

/-- R160, valid command: what ACCEPT and the two command words write, everything else unchanged. -/
def Obligations.AcceptStartsAFrame : Prop :=
  ∀ (s : State) (c : Command), s.mode = 0 → s.stuck? = none → c.id.toNat ≤ 0x07FF → c.dlc.toNat ≤ 8 →
    (c.rtr = 0 → exec (.encData (.command c.nbytes c.dlc c.id c.data)) s = .next (started s c)) ∧
    (c.rtr = 1 → exec (.encRemote (.command c.nbytes c.dlc c.id c.data)) s = .next (started s c)) ∧
    (s.pins.cmdValid = 1 → s.pins.cmd = c → exec .accept s = .next (started s c))

/-- R160, invalid command, and R196: `mode <- ERR`, `ecode <- code`, nothing else. -/
def Obligations.InvalidCommandRaisesItsError : Prop :=
  ∀ (s : State) (c : Command), s.mode = 0 → s.stuck? = none →
    (0x07FF < c.id.toNat →
      exec (.illegalId c) s = .next { s with mode := 2, ecode := 1 } ∧
      (s.pins.cmdValid = 1 → s.pins.cmd = c → exec .accept s = .next { s with mode := 2, ecode := 1 })) ∧
    (c.id.toNat ≤ 0x07FF → 8 < c.dlc.toNat →
      exec (.illegalDlc c) s = .next { s with mode := 2, ecode := 2 } ∧
      (s.pins.cmdValid = 1 → s.pins.cmd = c → exec .accept s = .next { s with mode := 2, ecode := 2 }))

/-- R54: the latch holds the padded lanes, and its top bits are the data bits of the descriptor. -/
def Obligations.LatchHoldsThePaddedLanes : Prop :=
  ∀ c : Command,
    (∀ k, k < 8 → (paddedData c.nbytes c.data).extractLsb' (56 - 8 * k) 8 =
      if k < min c.nbytes.toNat 8 then c.data.extractLsb' (56 - 8 * k) 8 else 0) ∧
    (∀ i, i < 64 → BitVec.ofBool ((paddedData c.nbytes c.data).getLsbD (63 - i)) =
      natBit ((descriptorOf c).dataBytes.getD (i / 8) 0) (7 - i % 8))

/-- ACCEPT of an offered command is the operation its command word decodes to (R73, R160). -/
def Obligations.AcceptRunsTheDecodedCommand : Prop :=
  ∀ s : State, s.mode = 0 → s.pins.cmdValid = 1 →
    exec .accept s = exec (decodeCommand s.pins.cmd.toWord) s

/-- R190 and R193: at the port only the identifier and the dlc can be wrong, with codes 1 and 2. -/
def Obligations.PortErrorsAreIdentifierOrDlc : Prop :=
  ∀ c : Command,
    (0x07FF < c.id.toNat → validate (descriptorOf c) = some (.invalidIdentifier c.id.toNat)) ∧
    (c.id.toNat ≤ 0x07FF → 8 < c.dlc.toNat → validate (descriptorOf c) = some (.invalidDlc c.dlc.toNat)) ∧
    (c.id.toNat ≤ 0x07FF → c.dlc.toNat ≤ 8 → validate (descriptorOf c) = none) ∧
    (∀ e, validate (descriptorOf c) = some e → e.code = 1 ∨ e.code = 2)

/-- R178, R179 and the busy case of R160 (U19): without an offered command, without a ready consumer, or
with a command offered while busy, nothing changes (the input levels apart). -/
def Obligations.NothingChangesWithoutAHandshake : Prop :=
  (∀ s : State, s.mode = 0 → s.stuck? = none → s.pins.cmdValid ≠ 1 → exec .accept s = .next s) ∧
  (∀ s : State, s.mode = 0 → s.stuck? = none → s.calls = [] → s.pins.rst ≠ 1 → s.pins.cmdValid ≠ 1 →
    step s = .next s.nextPins) ∧
  (∀ s : State, s.mode ≠ 0 → s.stuck? = none → s.calls = [] → s.pins.rst ≠ 1 → s.pins.outReady ≠ 1 →
    step s = .next s.nextPins) ∧
  (∀ (s : State) (c : Command), s.mode ≠ 0 → s.stuck? = none →
    exec (.encData (.command c.nbytes c.dlc c.id c.data)) s = .next s ∧
    exec (.encRemote (.command c.nbytes c.dlc c.id c.data)) s = .next s ∧
    exec (.illegalId c) s = .next s ∧ exec (.illegalDlc c) s = .next s)

/-- R161 to R168 with R175: the seven pre-CRC phases complete, each with its source bit; the written state
is the whole next state, so everything else is unchanged. -/
def Obligations.PreCrcPhasesEmitTheirBits : Prop :=
  ∀ s : State, s.mode = 1 → s.sp = 0 → s.pins.outReady = 1 → s.stuck? = none →
    (s.ph = 0 → exec .phSof s = .next (afterCopied s 0)) ∧
    (s.ph = 1 → exec .phId s = .next (afterCopied s (BitVec.ofBool (s.dId.getLsbD (10 - s.ix.toNat))))) ∧
    (s.ph = 2 → exec .phRtr s = .next (afterCopied s s.dRtr)) ∧
    (s.ph = 3 → exec .phIde s = .next (afterCopied s 0)) ∧
    (s.ph = 4 → exec .phR0 s = .next (afterCopied s 0)) ∧
    (s.ph = 5 → exec .phDlc s = .next (afterCopied s (BitVec.ofBool (s.dDlc.getLsbD (3 - s.ix.toNat))))) ∧
    (s.ph = 6 → exec .phData s = .next (afterCopied s (BitVec.ofBool (s.dData.getLsbD (63 - s.ix.toNat)))))

/-- R161, R169 to R173 with R175: the five tail phases complete; `crc`, `run`, `prev`, `sp` stay. -/
def Obligations.TailPhasesEmitTheirBits : Prop :=
  ∀ s : State, s.mode = 1 → s.sp = 0 → s.pins.outReady = 1 → s.stuck? = none →
    (s.ph = 7 → exec .phCrc s = .next (afterCopied s (BitVec.ofBool (s.crc.getLsbD (14 - s.ix.toNat))))) ∧
    (s.ph = 8 → exec .phCrcDel s = .next (afterCopied s 1)) ∧
    (s.ph = 9 → exec .phAck s = .next (afterCopied s 1)) ∧
    (s.ph = 10 → exec .phAckDel s = .next (afterCopied s 1)) ∧
    (s.ph = 11 → exec .phEof s = .next (afterCopied s 1)) ∧
    (7 ≤ s.ph → ∀ v, (afterCopied s v).crc = s.crc ∧ (afterCopied s v).run = s.run ∧
      (afterCopied s v).prev = s.prev ∧ (afterCopied s v).sp = 0)

/-- R174 and R180: STUFFBEAT's whole effect, and that a pending stuff beat goes first whatever `(ph, ix)`. -/
def Obligations.StuffBeatEmitsTheComplementFirst : Prop :=
  ∀ s : State, s.mode = 1 → s.sp = 1 → s.pins.outReady = 1 → s.stuck? = none →
    let t := { s with sent := s.sent ++ [⟨0, 0, ~~~s.prev, 1, s.ltag, 0⟩], sp := 0, opos := s.opos + 1 }
    exec .stuffBeat s = .next t ∧
    (s.calls = [] → s.pins.rst ≠ 1 → step s = .next t.nextPins)

/-- R176. -/
def Obligations.ErrorBeatReportsTheCodeAndReturns : Prop :=
  ∀ s : State, s.mode = 2 → s.pins.outReady = 1 → s.stuck? = none →
    exec .errBeat s = .next { s with
      sent := s.sent ++ [⟨1, s.ecode, 0, 0, 0, 1⟩], mode := 0, ecode := 0 }

/-- R29 and R38: the beat the outputs offer is the beat that is transferred; it stays offered while the
consumer is not ready; none is offered in IDLE. -/
def Obligations.OfferedBeatIsTheTransferredBeat : Prop :=
  ∀ s : State, s.calls = [] → s.pins.rst ≠ 1 → s.stuck? = none →
    (s.mode = 0 → s.offered = none ∧ ∃ t, step s = .next t ∧ t.sent = s.sent) ∧
    (s.mode ≠ 0 → ∃ b, s.offered = some b ∧
      (s.pins.outReady = 1 → ∃ t, step s = .next t ∧ t.sent = s.sent ++ [b]) ∧
      (s.pins.outReady ≠ 1 → ∃ t, step s = .next t ∧ t.sent = s.sent ∧ t.offered = some b))

/-- R220 with the reset column of R41, and R221: from any state, a reset edge. That `returned`, no register of
the block, stays is the model's choice (log entry 3), no rule of the spec. -/
def Obligations.ResetEdgeGivesTheResetState : Prop :=
  ∀ s : State, s.calls = [] → s.pins.rst = 1 →
    ∃ t, step s = .next t ∧
      t.mode = 0 ∧ t.ecode = 0 ∧ t.dId = 0 ∧ t.dRtr = 0 ∧ t.dDlc = 0 ∧ t.dData = 0 ∧ t.ph = 0 ∧ t.ix = 0 ∧
      t.crc = 0 ∧ t.run = 0 ∧ t.prev = 0 ∧ t.sp = 0 ∧ t.ltag = 0 ∧ t.opos = 0 ∧
      t.cmdReady = 1 ∧ t.outValid = 0 ∧ t.offered = none ∧ t.sent = s.sent ∧ t.returned = s.returned

/-- A step runs the operation the state selects; around it stand only the waiting calls, `rst`, and the
next input levels (log entries 4 and 5 for the queues). -/
def Obligations.StepRunsTheSelectedOperation : Prop :=
  (∀ (s : State) (c : Call) (rest : List Call), s.calls = c :: rest →
    step s = exec c.toInstr { s with calls := rest }) ∧
  (∀ (s : State) (i : Instr), s.calls = [] → s.pins.rst ≠ 1 → decode (.select s.select) = .ok i →
    (∀ t, exec i s = .next t → step s = .next t.nextPins) ∧
    (∀ f, exec i s = .fault f → step s = .fault f) ∧
    (∀ r, exec i s = .refused r → step s = .refused r)) ∧
  (∀ s : State, s.calls = [] → s.pins.rst ≠ 1 → s.mode = 0 → s.pins.cmdValid = 1 →
    ∀ t, exec (decodeCommand s.pins.cmd.toWord) s = .next t → step s = .next t.nextPins) ∧
  (∀ s : State, s.future = [] → s.nextPins = s) ∧
  (∀ (s : State) (p : Pins) (rest : List Pins), s.future = p :: rest →
    s.nextPins = { s with pins := p, future := rest })

/-- A selection word that R79 calls unreachable has no step: the model's choice among those of U16 (log
entry 7). -/
def Obligations.UnreachableSelectionIsStuck : Prop :=
  ∀ s : State, s.calls = [] → s.pins.rst ≠ 1 →
    (s.mode = 3 ∨ (s.mode = 1 ∧ s.sp = 0 ∧ 12 ≤ s.ph)) →
    step s = .fault (.unreachableSelect (.reservedSelect s.select))

/-! ### The whole machine -/

/-- The invariant holds at reset. -/
def Obligations.ResetMeetsTheInvariant : Prop := State.reset.Inv

/-- Every step keeps the invariant that ties a frame in progress to `assemble` (R42, R181). -/
def Obligations.StepKeepsTheInvariant : Prop :=
  ∀ s t : State, s.Inv → step s = .next t → t.Inv

/-- The invariant gives the clauses of R42. -/
def Obligations.InvariantGivesTheStateInvariants : Prop :=
  ∀ s : State, s.Inv → s.Reachable42

/-- R42: whatever the environment does, every state reached from reset meets its invariants. -/
def Obligations.StatesReachedFromResetMeetTheStateInvariants : Prop :=
  ∀ (pins : Pins) (future : List Pins) (calls : List Call) (k : Nat) (s : State),
    Host.Core.run Sys2Proof.core k { State.reset with pins := pins, future := future, calls := calls } = .next s →
    s.Reachable42

/-- From a state that meets the invariant the machine is never stuck, and every edge completes (R197: a
valid command cannot fail midway). -/
def Obligations.NoStuckStateFromTheInvariant : Prop :=
  ∀ s : State, s.Inv → (∀ f, step s ≠ .fault f) ∧ (s.calls = [] → ∃ t, step s = .next t)

/-- R181 and R182, ready consumer: a valid command accepted in IDLE takes one edge and one edge per bit,
and the beats sent are exactly the response that `assemble` stands for; R177: the registers afterwards. -/
def Obligations.StreamEqualsAssemble : Prop :=
  ∀ (s : State) (c : Command) (r : FrameResult),
    s.mode = 0 → s.stuck? = none → s.calls = [] → s.future = [] →
    s.pins = { rst := 0, cmdValid := 1, cmd := c, outReady := 1 } →
    assemble (descriptorOf c) = .ok r →
    (∃ t, Host.Core.run Sys2Proof.core (1 + r.bits.length) s = .next t ∧
      t.sent = s.sent ++ r.response ∧ t.mode = 0 ∧ t.opos.toNat = r.bits.length ∧
      t.crc = crc15 (preCrc (descriptorOf c)) ∧
      t.dId = BitVec.ofNat 11 c.id.toNat ∧ t.dRtr = c.rtr ∧ t.dDlc = c.dlc ∧
      t.dData = paddedData c.nbytes c.data) ∧
    (∀ k, k < r.bits.length →
      ∃ u, Host.Core.run Sys2Proof.core (1 + k) s = .next u ∧ u.mode = 1 ∧
        u.sent = s.sent ++ r.response.take k)

/-- R181 under any pacing (R61, R179): after `k` more edges without reset the consumer has received as many
beats of the response, in order, as it was ready for, whatever the command inputs did meanwhile. -/
def Obligations.PacingNeverChangesTheResponse : Prop :=
  ∀ (s : State) (c : Command) (r : FrameResult) (k : Nat),
    s.mode = 0 → s.stuck? = none → s.calls = [] →
    s.pins.cmdValid = 1 → s.pins.cmd = c → assemble (descriptorOf c) = .ok r →
    (∀ j, j ≤ k → (s.pinsAt j).rst = 0) → s.readyEdges k ≤ r.bits.length →
    ∃ t, Host.Core.run Sys2Proof.core (1 + k) s = .next t ∧
      t.sent = s.sent ++ r.response.take (s.readyEdges k)

/-- R197 and R198: an invalid command is answered by one error beat and leaves no other trace. -/
def Obligations.ErrorLeavesOnlyItsBeat : Prop :=
  ∀ (s : State) (c : Command) (e : EncodeError),
    s.mode = 0 → s.stuck? = none → s.calls = [] → s.future = [] →
    s.pins = { rst := 0, cmdValid := 1, cmd := c, outReady := 1 } →
    assemble (descriptorOf c) = .error e →
    Host.Core.run Sys2Proof.core 2 s = .next { s with sent := s.sent ++ e.response }

/-- R56, R64 and U13: the command inputs have no effect at an edge that is not accepting (R28): outside IDLE,
while `cmd_valid` is 0, or at a reset edge. -/
def Obligations.CommandInputsAreReadOnlyWhenAccepted : Prop :=
  ∀ (s : State) (p : Pins) (rest : List Pins) (c : Command) (v : Bit),
    s.calls = [] → s.future = p :: rest →
    (s.mode ≠ 0 → step { s with pins := { s.pins with cmd := c, cmdValid := v } } = step s) ∧
    (s.pins.cmdValid ≠ 1 → step { s with pins := { s.pins with cmd := c } } = step s) ∧
    (s.pins.rst = 1 → step { s with pins := { s.pins with cmd := c, cmdValid := v } } = step s)

/-- R26: a function-level operation changes nothing but what it returns, and what it returns does not
depend on the state. -/
def Obligations.FunctionCallsHaveNoState : Prop :=
  ∀ (c : Call) (s t : State), exec c.toInstr s = .next t →
    t = { s with returned := t.returned } ∧
    ∀ u : State, exec c.toInstr u = .next { u with returned := t.returned }

/-- R31, R34, R37 and R38: who writes the latch, the CRC register, the error code and the mode, over all
operations and all states. -/
def Obligations.RegistersAreWrittenOnlyByTheirWriters : Prop :=
  ∀ s t : State, step s = .next t → s.pins.rst ≠ 1 →
    ((t.dId, t.dRtr, t.dDlc, t.dData) ≠ (s.dId, s.dRtr, s.dDlc, s.dData) →
      s.mode = 0 ∧ s.pins.cmdValid = 1 ∧ validate (descriptorOf s.pins.cmd) = none) ∧
    (t.crc ≠ s.crc →
      (s.mode = 0 ∧ s.pins.cmdValid = 1 ∧ validate (descriptorOf s.pins.cmd) = none) ∨
      (s.mode = 1 ∧ s.sp = 0 ∧ s.ph.toNat ≤ 6 ∧ s.pins.outReady = 1)) ∧
    (t.ecode ≠ s.ecode → (s.mode = 0 ∧ s.pins.cmdValid = 1) ∨ (s.mode = 2 ∧ s.pins.outReady = 1)) ∧
    (t.mode ≠ s.mode → (s.mode = 0 ∧ s.pins.cmdValid = 1) ∨ (s.mode = 2 ∧ s.pins.outReady = 1) ∨
      (s.mode = 1 ∧ s.sp = 0 ∧ s.ph = 11 ∧ s.ix.toNat = 6 ∧ s.pins.outReady = 1))
end

