-- ==== Sys2Proof/Laws/State.lean ====
section
/-! SUPPORT. One lemma per field per update of the state, each true by unfolding the update once. -/

namespace Sys2Proof.Machine
namespace State

variable (s : State)

/-! ### `give` -/

@[simp] theorem give_mode (v : Returned) : (s.give v).mode = s.mode := rfl
@[simp] theorem give_ecode (v : Returned) : (s.give v).ecode = s.ecode := rfl
@[simp] theorem give_dId (v : Returned) : (s.give v).dId = s.dId := rfl
@[simp] theorem give_dRtr (v : Returned) : (s.give v).dRtr = s.dRtr := rfl
@[simp] theorem give_dDlc (v : Returned) : (s.give v).dDlc = s.dDlc := rfl
@[simp] theorem give_dData (v : Returned) : (s.give v).dData = s.dData := rfl
@[simp] theorem give_ph (v : Returned) : (s.give v).ph = s.ph := rfl
@[simp] theorem give_ix (v : Returned) : (s.give v).ix = s.ix := rfl
@[simp] theorem give_crc (v : Returned) : (s.give v).crc = s.crc := rfl
@[simp] theorem give_run (v : Returned) : (s.give v).run = s.run := rfl
@[simp] theorem give_prev (v : Returned) : (s.give v).prev = s.prev := rfl
@[simp] theorem give_sp (v : Returned) : (s.give v).sp = s.sp := rfl
@[simp] theorem give_ltag (v : Returned) : (s.give v).ltag = s.ltag := rfl
@[simp] theorem give_opos (v : Returned) : (s.give v).opos = s.opos := rfl
@[simp] theorem give_pins (v : Returned) : (s.give v).pins = s.pins := rfl
@[simp] theorem give_future (v : Returned) : (s.give v).future = s.future := rfl
@[simp] theorem give_calls (v : Returned) : (s.give v).calls = s.calls := rfl
@[simp] theorem give_sent (v : Returned) : (s.give v).sent = s.sent := rfl
@[simp] theorem give_returned (v : Returned) : (s.give v).returned = v := rfl

/-! ### `transfer` -/

@[simp] theorem transfer_mode (b : Beat) : (s.transfer b).mode = s.mode := rfl
@[simp] theorem transfer_ecode (b : Beat) : (s.transfer b).ecode = s.ecode := rfl
@[simp] theorem transfer_dId (b : Beat) : (s.transfer b).dId = s.dId := rfl
@[simp] theorem transfer_dRtr (b : Beat) : (s.transfer b).dRtr = s.dRtr := rfl
@[simp] theorem transfer_dDlc (b : Beat) : (s.transfer b).dDlc = s.dDlc := rfl
@[simp] theorem transfer_dData (b : Beat) : (s.transfer b).dData = s.dData := rfl
@[simp] theorem transfer_ph (b : Beat) : (s.transfer b).ph = s.ph := rfl
@[simp] theorem transfer_ix (b : Beat) : (s.transfer b).ix = s.ix := rfl
@[simp] theorem transfer_crc (b : Beat) : (s.transfer b).crc = s.crc := rfl
@[simp] theorem transfer_run (b : Beat) : (s.transfer b).run = s.run := rfl
@[simp] theorem transfer_prev (b : Beat) : (s.transfer b).prev = s.prev := rfl
@[simp] theorem transfer_sp (b : Beat) : (s.transfer b).sp = s.sp := rfl
@[simp] theorem transfer_ltag (b : Beat) : (s.transfer b).ltag = s.ltag := rfl
@[simp] theorem transfer_opos (b : Beat) : (s.transfer b).opos = s.opos := rfl
@[simp] theorem transfer_pins (b : Beat) : (s.transfer b).pins = s.pins := rfl
@[simp] theorem transfer_future (b : Beat) : (s.transfer b).future = s.future := rfl
@[simp] theorem transfer_calls (b : Beat) : (s.transfer b).calls = s.calls := rfl
@[simp] theorem transfer_sent (b : Beat) : (s.transfer b).sent = s.sent ++ [b] := rfl
@[simp] theorem transfer_returned (b : Beat) : (s.transfer b).returned = s.returned := rfl

/-! ### `raiseError` -/

@[simp] theorem raiseError_mode (e : EncodeError) : (s.raiseError e).mode = modeErr := rfl
@[simp] theorem raiseError_ecode (e : EncodeError) : (s.raiseError e).ecode = e.code := rfl
@[simp] theorem raiseError_dId (e : EncodeError) : (s.raiseError e).dId = s.dId := rfl
@[simp] theorem raiseError_dRtr (e : EncodeError) : (s.raiseError e).dRtr = s.dRtr := rfl
@[simp] theorem raiseError_dDlc (e : EncodeError) : (s.raiseError e).dDlc = s.dDlc := rfl
@[simp] theorem raiseError_dData (e : EncodeError) : (s.raiseError e).dData = s.dData := rfl
@[simp] theorem raiseError_ph (e : EncodeError) : (s.raiseError e).ph = s.ph := rfl
@[simp] theorem raiseError_ix (e : EncodeError) : (s.raiseError e).ix = s.ix := rfl
@[simp] theorem raiseError_crc (e : EncodeError) : (s.raiseError e).crc = s.crc := rfl
@[simp] theorem raiseError_run (e : EncodeError) : (s.raiseError e).run = s.run := rfl
@[simp] theorem raiseError_prev (e : EncodeError) : (s.raiseError e).prev = s.prev := rfl
@[simp] theorem raiseError_sp (e : EncodeError) : (s.raiseError e).sp = s.sp := rfl
@[simp] theorem raiseError_ltag (e : EncodeError) : (s.raiseError e).ltag = s.ltag := rfl
@[simp] theorem raiseError_opos (e : EncodeError) : (s.raiseError e).opos = s.opos := rfl
@[simp] theorem raiseError_pins (e : EncodeError) : (s.raiseError e).pins = s.pins := rfl
@[simp] theorem raiseError_future (e : EncodeError) : (s.raiseError e).future = s.future := rfl
@[simp] theorem raiseError_calls (e : EncodeError) : (s.raiseError e).calls = s.calls := rfl
@[simp] theorem raiseError_sent (e : EncodeError) : (s.raiseError e).sent = s.sent := rfl
@[simp] theorem raiseError_returned (e : EncodeError) : (s.raiseError e).returned = s.returned := rfl

/-! ### `returnFromError` -/

@[simp] theorem returnFromError_mode : (s.returnFromError).mode = modeIdle := rfl
@[simp] theorem returnFromError_ecode : (s.returnFromError).ecode = 0 := rfl
@[simp] theorem returnFromError_dId : (s.returnFromError).dId = s.dId := rfl
@[simp] theorem returnFromError_dRtr : (s.returnFromError).dRtr = s.dRtr := rfl
@[simp] theorem returnFromError_dDlc : (s.returnFromError).dDlc = s.dDlc := rfl
@[simp] theorem returnFromError_dData : (s.returnFromError).dData = s.dData := rfl
@[simp] theorem returnFromError_ph : (s.returnFromError).ph = s.ph := rfl
@[simp] theorem returnFromError_ix : (s.returnFromError).ix = s.ix := rfl
@[simp] theorem returnFromError_crc : (s.returnFromError).crc = s.crc := rfl
@[simp] theorem returnFromError_run : (s.returnFromError).run = s.run := rfl
@[simp] theorem returnFromError_prev : (s.returnFromError).prev = s.prev := rfl
@[simp] theorem returnFromError_sp : (s.returnFromError).sp = s.sp := rfl
@[simp] theorem returnFromError_ltag : (s.returnFromError).ltag = s.ltag := rfl
@[simp] theorem returnFromError_opos : (s.returnFromError).opos = s.opos := rfl
@[simp] theorem returnFromError_pins : (s.returnFromError).pins = s.pins := rfl
@[simp] theorem returnFromError_future : (s.returnFromError).future = s.future := rfl
@[simp] theorem returnFromError_calls : (s.returnFromError).calls = s.calls := rfl
@[simp] theorem returnFromError_sent : (s.returnFromError).sent = s.sent ++ [s.errorBeat] := rfl
@[simp] theorem returnFromError_returned : (s.returnFromError).returned = s.returned := rfl

/-! ### `emitStuffed` -/

@[simp] theorem emitStuffed_mode : (s.emitStuffed).mode = s.mode := rfl
@[simp] theorem emitStuffed_ecode : (s.emitStuffed).ecode = s.ecode := rfl
@[simp] theorem emitStuffed_dId : (s.emitStuffed).dId = s.dId := rfl
@[simp] theorem emitStuffed_dRtr : (s.emitStuffed).dRtr = s.dRtr := rfl
@[simp] theorem emitStuffed_dDlc : (s.emitStuffed).dDlc = s.dDlc := rfl
@[simp] theorem emitStuffed_dData : (s.emitStuffed).dData = s.dData := rfl
@[simp] theorem emitStuffed_ph : (s.emitStuffed).ph = s.ph := rfl
@[simp] theorem emitStuffed_ix : (s.emitStuffed).ix = s.ix := rfl
@[simp] theorem emitStuffed_crc : (s.emitStuffed).crc = s.crc := rfl
@[simp] theorem emitStuffed_run : (s.emitStuffed).run = s.run := rfl
@[simp] theorem emitStuffed_prev : (s.emitStuffed).prev = s.prev := rfl
@[simp] theorem emitStuffed_sp : (s.emitStuffed).sp = 0 := rfl
@[simp] theorem emitStuffed_ltag : (s.emitStuffed).ltag = s.ltag := rfl
@[simp] theorem emitStuffed_opos : (s.emitStuffed).opos = s.opos + 1 := rfl
@[simp] theorem emitStuffed_pins : (s.emitStuffed).pins = s.pins := rfl
@[simp] theorem emitStuffed_future : (s.emitStuffed).future = s.future := rfl
@[simp] theorem emitStuffed_calls : (s.emitStuffed).calls = s.calls := rfl
@[simp] theorem emitStuffed_sent : (s.emitStuffed).sent = s.sent ++ [s.stuffedBeat] := rfl
@[simp] theorem emitStuffed_returned : (s.emitStuffed).returned = s.returned := rfl

/-! ### `startFrame` -/

@[simp] theorem startFrame_mode (c : Command) : (s.startFrame c).mode = modeRun := rfl
@[simp] theorem startFrame_ecode (c : Command) : (s.startFrame c).ecode = 0 := rfl
@[simp] theorem startFrame_dId (c : Command) : (s.startFrame c).dId = c.id.extractLsb' 0 11 := rfl
@[simp] theorem startFrame_dRtr (c : Command) : (s.startFrame c).dRtr = c.rtr := rfl
@[simp] theorem startFrame_dDlc (c : Command) : (s.startFrame c).dDlc = c.dlc := rfl
@[simp] theorem startFrame_dData (c : Command) : (s.startFrame c).dData = paddedData c.nbytes c.data := rfl
@[simp] theorem startFrame_ph (c : Command) : (s.startFrame c).ph = 0 := rfl
@[simp] theorem startFrame_ix (c : Command) : (s.startFrame c).ix = 0 := rfl
@[simp] theorem startFrame_crc (c : Command) : (s.startFrame c).crc = 0 := rfl
@[simp] theorem startFrame_run (c : Command) : (s.startFrame c).run = 0 := rfl
@[simp] theorem startFrame_prev (c : Command) : (s.startFrame c).prev = s.prev := rfl
@[simp] theorem startFrame_sp (c : Command) : (s.startFrame c).sp = 0 := rfl
@[simp] theorem startFrame_ltag (c : Command) : (s.startFrame c).ltag = 0 := rfl
@[simp] theorem startFrame_opos (c : Command) : (s.startFrame c).opos = 0 := rfl
@[simp] theorem startFrame_pins (c : Command) : (s.startFrame c).pins = s.pins := rfl
@[simp] theorem startFrame_future (c : Command) : (s.startFrame c).future = s.future := rfl
@[simp] theorem startFrame_calls (c : Command) : (s.startFrame c).calls = s.calls := rfl
@[simp] theorem startFrame_sent (c : Command) : (s.startFrame c).sent = s.sent := rfl
@[simp] theorem startFrame_returned (c : Command) : (s.startFrame c).returned = s.returned := rfl

/-! ### `advancePosition` -/

@[simp] theorem advancePosition_mode : (s.advancePosition).mode = (advance s.ph s.ix s.dDlc).2.2 := rfl
@[simp] theorem advancePosition_ecode : (s.advancePosition).ecode = s.ecode := rfl
@[simp] theorem advancePosition_dId : (s.advancePosition).dId = s.dId := rfl
@[simp] theorem advancePosition_dRtr : (s.advancePosition).dRtr = s.dRtr := rfl
@[simp] theorem advancePosition_dDlc : (s.advancePosition).dDlc = s.dDlc := rfl
@[simp] theorem advancePosition_dData : (s.advancePosition).dData = s.dData := rfl
@[simp] theorem advancePosition_ph : (s.advancePosition).ph = (advance s.ph s.ix s.dDlc).1 := rfl
@[simp] theorem advancePosition_ix : (s.advancePosition).ix = (advance s.ph s.ix s.dDlc).2.1 := rfl
@[simp] theorem advancePosition_crc : (s.advancePosition).crc = s.crc := rfl
@[simp] theorem advancePosition_run : (s.advancePosition).run = s.run := rfl
@[simp] theorem advancePosition_prev : (s.advancePosition).prev = s.prev := rfl
@[simp] theorem advancePosition_sp : (s.advancePosition).sp = s.sp := rfl
@[simp] theorem advancePosition_ltag : (s.advancePosition).ltag = s.ph := rfl
@[simp] theorem advancePosition_opos : (s.advancePosition).opos = s.opos + 1 := rfl
@[simp] theorem advancePosition_pins : (s.advancePosition).pins = s.pins := rfl
@[simp] theorem advancePosition_future : (s.advancePosition).future = s.future := rfl
@[simp] theorem advancePosition_calls : (s.advancePosition).calls = s.calls := rfl
@[simp] theorem advancePosition_sent : (s.advancePosition).sent = s.sent := rfl
@[simp] theorem advancePosition_returned : (s.advancePosition).returned = s.returned := rfl

/-! ### `resetRegisters` -/

@[simp] theorem resetRegisters_mode : (s.resetRegisters).mode = 0 := rfl
@[simp] theorem resetRegisters_ecode : (s.resetRegisters).ecode = 0 := rfl
@[simp] theorem resetRegisters_dId : (s.resetRegisters).dId = 0 := rfl
@[simp] theorem resetRegisters_dRtr : (s.resetRegisters).dRtr = 0 := rfl
@[simp] theorem resetRegisters_dDlc : (s.resetRegisters).dDlc = 0 := rfl
@[simp] theorem resetRegisters_dData : (s.resetRegisters).dData = 0 := rfl
@[simp] theorem resetRegisters_ph : (s.resetRegisters).ph = 0 := rfl
@[simp] theorem resetRegisters_ix : (s.resetRegisters).ix = 0 := rfl
@[simp] theorem resetRegisters_crc : (s.resetRegisters).crc = 0 := rfl
@[simp] theorem resetRegisters_run : (s.resetRegisters).run = 0 := rfl
@[simp] theorem resetRegisters_prev : (s.resetRegisters).prev = 0 := rfl
@[simp] theorem resetRegisters_sp : (s.resetRegisters).sp = 0 := rfl
@[simp] theorem resetRegisters_ltag : (s.resetRegisters).ltag = 0 := rfl
@[simp] theorem resetRegisters_opos : (s.resetRegisters).opos = 0 := rfl
@[simp] theorem resetRegisters_pins : (s.resetRegisters).pins = s.pins := rfl
@[simp] theorem resetRegisters_future : (s.resetRegisters).future = s.future := rfl
@[simp] theorem resetRegisters_calls : (s.resetRegisters).calls = s.calls := rfl
@[simp] theorem resetRegisters_sent : (s.resetRegisters).sent = s.sent := rfl
@[simp] theorem resetRegisters_returned : (s.resetRegisters).returned = s.returned := rfl

/-! ### `feed`: only `crc`, `run`, `prev`, `sp` can change (R161) -/

@[simp] theorem feed_mode (v : Bit) : (s.feed v).mode = s.mode := by
  unfold feed; simp only []; split <;> [split; skip] <;> rfl
@[simp] theorem feed_ecode (v : Bit) : (s.feed v).ecode = s.ecode := by
  unfold feed; simp only []; split <;> [split; skip] <;> rfl
@[simp] theorem feed_dId (v : Bit) : (s.feed v).dId = s.dId := by
  unfold feed; simp only []; split <;> [split; skip] <;> rfl
@[simp] theorem feed_dRtr (v : Bit) : (s.feed v).dRtr = s.dRtr := by
  unfold feed; simp only []; split <;> [split; skip] <;> rfl
@[simp] theorem feed_dDlc (v : Bit) : (s.feed v).dDlc = s.dDlc := by
  unfold feed; simp only []; split <;> [split; skip] <;> rfl
@[simp] theorem feed_dData (v : Bit) : (s.feed v).dData = s.dData := by
  unfold feed; simp only []; split <;> [split; skip] <;> rfl
@[simp] theorem feed_ph (v : Bit) : (s.feed v).ph = s.ph := by
  unfold feed; simp only []; split <;> [split; skip] <;> rfl
@[simp] theorem feed_ix (v : Bit) : (s.feed v).ix = s.ix := by
  unfold feed; simp only []; split <;> [split; skip] <;> rfl
@[simp] theorem feed_ltag (v : Bit) : (s.feed v).ltag = s.ltag := by
  unfold feed; simp only []; split <;> [split; skip] <;> rfl
@[simp] theorem feed_opos (v : Bit) : (s.feed v).opos = s.opos := by
  unfold feed; simp only []; split <;> [split; skip] <;> rfl
@[simp] theorem feed_pins (v : Bit) : (s.feed v).pins = s.pins := by
  unfold feed; simp only []; split <;> [split; skip] <;> rfl
@[simp] theorem feed_future (v : Bit) : (s.feed v).future = s.future := by
  unfold feed; simp only []; split <;> [split; skip] <;> rfl
@[simp] theorem feed_calls (v : Bit) : (s.feed v).calls = s.calls := by
  unfold feed; simp only []; split <;> [split; skip] <;> rfl
@[simp] theorem feed_sent (v : Bit) : (s.feed v).sent = s.sent := by
  unfold feed; simp only []; split <;> [split; skip] <;> rfl
@[simp] theorem feed_returned (v : Bit) : (s.feed v).returned = s.returned := by
  unfold feed; simp only []; split <;> [split; skip] <;> rfl

/-! ### `nextPins`: only `pins` and `future` can change -/

@[simp] theorem nextPins_mode : s.nextPins.mode = s.mode := by
  unfold nextPins; split <;> rfl
@[simp] theorem nextPins_ecode : s.nextPins.ecode = s.ecode := by
  unfold nextPins; split <;> rfl
@[simp] theorem nextPins_dId : s.nextPins.dId = s.dId := by
  unfold nextPins; split <;> rfl
@[simp] theorem nextPins_dRtr : s.nextPins.dRtr = s.dRtr := by
  unfold nextPins; split <;> rfl
@[simp] theorem nextPins_dDlc : s.nextPins.dDlc = s.dDlc := by
  unfold nextPins; split <;> rfl
@[simp] theorem nextPins_dData : s.nextPins.dData = s.dData := by
  unfold nextPins; split <;> rfl
@[simp] theorem nextPins_ph : s.nextPins.ph = s.ph := by
  unfold nextPins; split <;> rfl
@[simp] theorem nextPins_ix : s.nextPins.ix = s.ix := by
  unfold nextPins; split <;> rfl
@[simp] theorem nextPins_crc : s.nextPins.crc = s.crc := by
  unfold nextPins; split <;> rfl
@[simp] theorem nextPins_run : s.nextPins.run = s.run := by
  unfold nextPins; split <;> rfl
@[simp] theorem nextPins_prev : s.nextPins.prev = s.prev := by
  unfold nextPins; split <;> rfl
@[simp] theorem nextPins_sp : s.nextPins.sp = s.sp := by
  unfold nextPins; split <;> rfl
@[simp] theorem nextPins_ltag : s.nextPins.ltag = s.ltag := by
  unfold nextPins; split <;> rfl
@[simp] theorem nextPins_opos : s.nextPins.opos = s.opos := by
  unfold nextPins; split <;> rfl
@[simp] theorem nextPins_calls : s.nextPins.calls = s.calls := by
  unfold nextPins; split <;> rfl
@[simp] theorem nextPins_sent : s.nextPins.sent = s.sent := by
  unfold nextPins; split <;> rfl
@[simp] theorem nextPins_returned : s.nextPins.returned = s.returned := by
  unfold nextPins; split <;> rfl

end State
end Sys2Proof.Machine
end

