-- ==== Sys2Proof/Laws/Units.lean ====
section
/-! SUPPORT. The small lemmas of the block's four units: bit vectors, CRC, stuffing, assembler. -/

namespace Sys2Proof.Machine

/-! ### Bit vectors -/

@[simp] theorem msbFirst_length (w value : Nat) : (msbFirst w value).length = w := by
  induction w generalizing value with
  | zero => rfl
  | succ w ih => simp [msbFirst, ih]

theorem intToBits_of_lt {value width : Nat} (h : value < 2 ^ width) :
    intToBits value width = some (msbFirst width value) := by simp [intToBits, h]

theorem intToBits_of_ge {value width : Nat} (h : 2 ^ width ≤ value) : intToBits value width = none := by
  simp [intToBits, Nat.not_lt.mpr h]

@[simp] theorem concatBits_nil : concatBits [] = [] := rfl

@[simp] theorem concatBits_cons (s : BitSeq) (rest : List BitSeq) :
    concatBits (s :: rest) = s ++ concatBits rest := rfl

theorem concatBits_eq_flatten (seqs : List BitSeq) : concatBits seqs = seqs.flatten := by
  induction seqs with
  | nil => rfl
  | cons s rest ih => simp [ih]

/-- BYTES2BITS within its operands is the concatenation of the bytes' bits. -/
theorem bytesToBits_of_le {bytes : List Nat} (h : ∀ b ∈ bytes, b ≤ 255) :
    bytesToBits bytes = some (concatBits (bytes.map (msbFirst 8))) := by
  induction bytes with
  | nil => rfl
  | cons b rest ih =>
    have hb : b < 2 ^ 8 := by have := h b (by simp); omega
    simp [bytesToBits, intToBits_of_lt hb, ih fun x hx => h x (by simp [hx])]

/-! ### CRC -/

@[simp] theorem crc15_nil : crc15 [] = 0 := rfl

theorem crc15_snoc (bits : BitSeq) (b : Bit) : crc15 (bits ++ [b]) = crcStep (crc15 bits) b := by
  simp [crc15]

/-! ### Stuffing -/

@[simp] theorem stuffRun_nil : stuffRun [] = stuffInit := rfl

theorem stuffRun_snoc (bits : BitSeq) (b : Bit) :
    stuffRun (bits ++ [b]) = stuffStep (stuffRun bits) b := by simp [stuffRun]

/-- All that one STUFF.STEP can do (R121). -/
theorem stuffStep_cases (st : StuffState) (b : Bit) :
    (runCount st.run st.prev b = 5 ∧
      stuffStep st b = ⟨0, b, st.out ++ [b] ++ [~~~b], st.ins ++ [(st.out ++ [b]).length]⟩) ∨
    (runCount st.run st.prev b ≠ 5 ∧
      stuffStep st b = ⟨runCount st.run st.prev b, b, st.out ++ [b], st.ins⟩) := by
  by_cases h : runCount st.run st.prev b = 5
  · exact .inl ⟨h, by simp [stuffStep, h]⟩
  · exact .inr ⟨h, by simp [stuffStep, h]⟩

/-- The counter stays below the insertion threshold between steps (R121: "the counter never holds 5"). -/
theorem stuffStep_run_le {st : StuffState} (h : st.run ≤ 4) (b : Bit) : (stuffStep st b).run ≤ 4 := by
  have hr : runCount st.run st.prev b ≤ 5 := by unfold runCount; split <;> omega
  rcases stuffStep_cases st b with ⟨-, e⟩ | ⟨hne, e⟩ <;> rw [e]
  · exact Nat.zero_le _
  · show runCount st.run st.prev b ≤ 4
    omega

/-- One or two bits are added to the output by each step. -/
theorem stuffStep_out_length (st : StuffState) (b : Bit) :
    (stuffStep st b).out.length = st.out.length + 1 ∨ (stuffStep st b).out.length = st.out.length + 2 := by
  rcases stuffStep_cases st b with ⟨-, e⟩ | ⟨-, e⟩ <;> rw [e] <;> simp

/-! ### Assembler -/

@[simp] theorem usedBytes_length (d : Descriptor) : (usedBytes d).length = d.dlc := by simp [usedBytes]

/-- What VALIDATE has established when it accepts (R135). -/
theorem validateUnder_eq_none {policy : Config.PadPolicy} {d : Descriptor}
    (h : validateUnder policy d = none) :
    d.identifier ≤ 2047 ∧ d.dlc ≤ 8 ∧ ∀ b ∈ d.dataBytes, b ≤ 255 := by
  unfold validateUnder at h
  split at h
  · cases h
  split at h
  · cases h
  split at h
  · cases h
  rename_i h1 h2 _ h3
  refine ⟨by simpa using h1, by simpa using h2, fun b hb => ?_⟩
  have := List.findIdx?_eq_none_iff.mp h3 b hb
  simpa using this

/-- `assemble` is VALIDATE and then the construction. -/
theorem assemble_eq_ok {d : Descriptor} {r : FrameResult} (h : assemble d = .ok r) :
    validate d = none ∧ r = construct d := by
  unfold assemble at h
  split at h
  · cases h
  · exact ⟨‹_›, by cases h; rfl⟩

theorem assemble_eq_error {d : Descriptor} {e : EncodeError} (h : assemble d = .error e) :
    validate d = some e := by
  unfold assemble at h
  split at h
  · cases h; assumption
  · cases h

end Sys2Proof.Machine
end

