-- ==== Sys2Proof/Laws/Ops.lean ====
section
/-! SUPPORT. For each shared operation of the port level, one lemma that says all it can do, and the
inversion of the step. Later proofs cite these instead of unfolding the operation. -/

namespace Sys2Proof.Machine

theorem unlessStuck_eq_next {s t u : State} :
    s.unlessStuck t = .next u ↔ s.stuck? = none ∧ u = t := by
  unfold State.unlessStuck
  split <;> rename_i h
  · simp [h]
  · simp [h, eq_comm]

@[simp] theorem unlessStuck_of_none {s t : State} (h : s.stuck? = none) : s.unlessStuck t = .next t :=
  unlessStuck_eq_next.mpr ⟨h, rfl⟩

/-- What it means that a state has a step (U16). -/
theorem stuck_eq_none_iff {s : State} :
    s.stuck? = none ↔ s.mode ≠ 3 ∧ (s.mode ≠ modeErr → s.ecode = 0) ∧ s.run.toNat < 5 ∧
      (s.mode = modeRun → s.dDlc ≤ 8) ∧
      (s.mode = modeRun → s.sp = 0 → s.ix.toNat < phLen s.ph s.dDlc) := by
  unfold State.stuck?
  repeat' split
  all_goals simp_all [BitVec.not_lt]

/-- All that a phase operation can do when it completes: hold the beat, or emit it. -/
theorem execPhase_eq_next {code : BitVec 4} {v : Bit} {s t : State} :
    execPhase code v s = .next t ↔
      (s.mode = modeRun ∧ s.sp = 0 ∧ s.ph = code) ∧ s.stuck? = none ∧
      t = if s.pins.outReady = 1 then s.emitCopied v else s := by
  unfold execPhase
  split <;> simp_all [unlessStuck_eq_next]

/-- All that a command word can do when it completes. -/
theorem offerCommand_eq_next {c : Command} {s t : State} :
    offerCommand c s = .next t ↔
      s.stuck? = none ∧ t = if s.mode = modeIdle then s.acceptCommand c else s := by
  simp [offerCommand, unlessStuck_eq_next]

/-- ACCEPT raises the error VALIDATE finds, or starts the frame (R160). -/
theorem acceptCommand_cases (s : State) (c : Command) :
    (∃ e, validate (descriptorOf c) = some e ∧ s.acceptCommand c = s.raiseError e) ∨
    (validate (descriptorOf c) = none ∧ s.acceptCommand c = s.startFrame c) := by
  unfold State.acceptCommand
  split
  · exact .inl ⟨_, ‹_›, rfl⟩
  · exact .inr ⟨‹_›, rfl⟩

/-- CRC.STEP and STUFF.STEP inside a beat: not at all after the data field; before it, with or without an
insertion becoming due (R161). -/
theorem feed_cases (s : State) (v : Bit) :
    (isPreCrc s.ph = false ∧ s.feed v = s) ∨
    (isPreCrc s.ph = true ∧ runCount s.run.toNat s.prev v = 5 ∧
      s.feed v = { s with crc := crcStep s.crc v, prev := v, run := 0, sp := 1 }) ∨
    (isPreCrc s.ph = true ∧ runCount s.run.toNat s.prev v ≠ 5 ∧
      s.feed v = { s with crc := crcStep s.crc v, prev := v,
                          run := BitVec.ofNat 3 (runCount s.run.toNat s.prev v) }) := by
  cases hp : isPreCrc s.ph
  · exact .inl ⟨rfl, by simp [State.feed, hp]⟩
  · by_cases h : runCount s.run.toNat s.prev v = 5
    · exact .inr (.inl ⟨rfl, h, by simp [State.feed, hp, h]⟩)
    · exact .inr (.inr ⟨rfl, h, by simp [State.feed, hp, h]⟩)

/-- The four ways the position can move (R175). -/
theorem advance_cases (ph : BitVec 4) (ix : BitVec 6) (dlc : BitVec 4) :
    (ix.toNat + 1 < phLen ph dlc ∧ advance ph ix dlc = (ph, ix + 1, modeRun)) ∨
    (phLen ph dlc ≤ ix.toNat + 1 ∧ ph = 11 ∧ advance ph ix dlc = (0, 0, modeIdle)) ∨
    (phLen ph dlc ≤ ix.toNat + 1 ∧ ph = 5 ∧ dlc = 0 ∧ advance ph ix dlc = (7, 0, modeRun)) ∨
    (phLen ph dlc ≤ ix.toNat + 1 ∧ ph ≠ 11 ∧ ¬ (ph = 5 ∧ dlc = 0) ∧
      advance ph ix dlc = (ph + 1, 0, modeRun)) := by
  unfold advance
  split
  · exact .inl ⟨‹_›, rfl⟩
  · have h : phLen ph dlc ≤ ix.toNat + 1 := by omega
    split
    · exact .inr (.inl ⟨h, ‹_›, rfl⟩)
    · split
      · rename_i h5; exact .inr (.inr (.inl ⟨h, h5.1, h5.2, rfl⟩))
      · exact .inr (.inr (.inr ⟨h, ‹_›, ‹_›, rfl⟩))

/-- A beat leaves the latch, the error code and the environment alone, and adds itself to the stream. -/
theorem emitCopied_frame (s : State) (v : Bit) :
    (s.emitCopied v).dId = s.dId ∧ (s.emitCopied v).dRtr = s.dRtr ∧ (s.emitCopied v).dDlc = s.dDlc ∧
    (s.emitCopied v).dData = s.dData ∧ (s.emitCopied v).ecode = s.ecode ∧
    (s.emitCopied v).pins = s.pins ∧ (s.emitCopied v).future = s.future ∧
    (s.emitCopied v).calls = s.calls ∧ (s.emitCopied v).returned = s.returned ∧
    (s.emitCopied v).sent = s.sent ++ [s.copiedBeat v] := by
  simp [State.emitCopied]

/-- Selecting by `SEL` is deciding on mode, `sp` and `ph` (R79). -/
theorem select_fields (s : State) :
    s.select.extractLsb' 5 2 = s.mode ∧ s.select.extractLsb' 4 1 = s.sp ∧
    s.select.extractLsb' 0 4 = s.ph := by
  unfold State.select
  generalize s.mode = m
  generalize s.sp = p
  generalize s.ph = h
  revert m p h
  decide

/-- A waiting call is the step. -/
theorem step_of_call {s : State} {c : Call} {rest : List Call} (h : s.calls = c :: rest) :
    step s = exec c.toInstr { s with calls := rest } := by simp [step, h]

/-- Without a waiting call the step is an edge. -/
theorem step_of_no_call {s : State} (h : s.calls = []) : step s = edge s := by simp [step, h]

/-- All that a step can do when it completes. -/
theorem step_cases {s t : State} (h : step s = .next t) :
    (∃ c rest, s.calls = c :: rest ∧ exec c.toInstr { s with calls := rest } = .next t) ∨
    (s.calls = [] ∧ s.pins.rst = 1 ∧ t = s.resetRegisters.nextPins) ∨
    (s.calls = [] ∧ s.pins.rst ≠ 1 ∧
      ∃ i u, decode (.select s.select) = .ok i ∧ exec i s = .next u ∧ t = u.nextPins) := by
  cases hc : s.calls with
  | cons c rest => exact .inl ⟨c, rest, rfl, by rw [← step_of_call hc]; exact h⟩
  | nil =>
    rw [step_of_no_call hc] at h
    unfold edge at h
    split at h
    · cases h; exact .inr (.inl ⟨rfl, ‹_›, rfl⟩)
    · refine .inr (.inr ⟨rfl, ‹_›, ?_⟩)
      split at h
      · rename_i i hi
        cases hx : exec i s with
        | next u => rw [hx] at h; cases h; exact ⟨i, u, hi, hx, rfl⟩
        | fault f => rw [hx] at h; cases h
        | refused r => rw [hx] at h; cases h
      · cases h

end Sys2Proof.Machine
end

