-- ==== Sys2Proof/Laws/PerInstr.lean ====
section
/-! SUPPORT. Per-instruction families: `Level`, that the encoder selects each operation the way the
column "level" of 30_encoding.md R70 says. -/

namespace Sys2Proof.Laws

/-- How an operation is selected (R70): by a command word, by the sequencer's state, or by name. -/
inductive Selector where
  | commandWord
  | sequencerState
  | name
  deriving DecidableEq, Repr

/-- What an encoding is. -/
def selectorOf : Encoding → Selector
  | .command _ => .commandWord
  | .select _ => .sequencerState
  | .call _ => .name

/-- How R70 says each operation is selected. -/
def expectedSelector : Instr → Selector
  | .encData (.command _ _ _ _) | .encRemote (.command _ _ _ _) => .commandWord
  | .illegalId _ | .illegalDlc _ => .commandWord
  | .accept | .phSof | .phId | .phRtr | .phIde | .phR0 | .phDlc | .phData | .phCrc => .sequencerState
  | .phCrcDel | .phAck | .phAckDel | .phEof | .stuffBeat | .errBeat => .sequencerState
  | .encData (.call _ _ _) | .encRemote (.call _ _ _) => .name
  | .int2bits _ _ | .bytes2bits _ | .concat _ | .bits2int _ | .crcInit | .crcStep _ _ | .crc15 _ => .name
  | .stuffInit | .stuffStep _ _ _ _ _ | .stuff _ | .destuff _ _ | .validate _ => .name

namespace Level

/-- The encoder selects `i` as R70 says. -/
def Statement (i : Instr) : Prop := selectorOf (encode i) = expectedSelector i

theorem encData (form : EncForm) : Statement (.encData form) := by cases form <;> rfl
theorem encRemote (form : EncForm) : Statement (.encRemote form) := by cases form <;> rfl
theorem illegalId (cmd : Command) : Statement (.illegalId cmd) := rfl
theorem illegalDlc (cmd : Command) : Statement (.illegalDlc cmd) := rfl
theorem accept : Statement .accept := rfl
theorem phSof : Statement .phSof := rfl
theorem phId : Statement .phId := rfl
theorem phRtr : Statement .phRtr := rfl
theorem phIde : Statement .phIde := rfl
theorem phR0 : Statement .phR0 := rfl
theorem phDlc : Statement .phDlc := rfl
theorem phData : Statement .phData := rfl
theorem phCrc : Statement .phCrc := rfl
theorem phCrcDel : Statement .phCrcDel := rfl
theorem phAck : Statement .phAck := rfl
theorem phAckDel : Statement .phAckDel := rfl
theorem phEof : Statement .phEof := rfl
theorem stuffBeat : Statement .stuffBeat := rfl
theorem errBeat : Statement .errBeat := rfl
theorem int2bits (value width : Nat) : Statement (.int2bits value width) := rfl
theorem bytes2bits (bytes : List Nat) : Statement (.bytes2bits bytes) := rfl
theorem concat (seqs : List BitSeq) : Statement (.concat seqs) := rfl
theorem bits2int (bits : BitSeq) : Statement (.bits2int bits) := rfl
theorem crcInit : Statement .crcInit := rfl
theorem crcStep (crc : BitVec 15) (b : Bit) : Statement (.crcStep crc b) := rfl
theorem crc15 (bits : BitSeq) : Statement (.crc15 bits) := rfl
theorem stuffInit : Statement .stuffInit := rfl
theorem stuffStep (run : Nat) (prev : Bit) (out : BitSeq) (ins : List Nat) (b : Bit) :
    Statement (.stuffStep run prev out ins b) := rfl
theorem stuff (bits : BitSeq) : Statement (.stuff bits) := rfl
theorem destuff (stuffedBits : BitSeq) (ins : List Nat) : Statement (.destuff stuffedBits ins) := rfl
theorem validate (d : Descriptor) : Statement (.validate d) := rfl

end Level
end Sys2Proof.Laws
end

