-- ==== Sys2Proof/Tests/Slice0.lean ====
section
/-! SUPPORT. The model's own tests: well-formedness, decoding, at most two small theorems per operation
(expected values from spec/95_test_vectors.md and the rules, source in each docstring), and a witness for
the hypotheses of every statement that has some. -/

open Sys2Proof Sys2Proof.Machine Sys2Proof.Claims

namespace Sys2Proof.Tests

/-! ### Helpers -/

/-- What a function-level operation returned. -/
def returnedBy (o : Host.Outcome State Fault Refusal) : Option Returned :=
  match o with
  | .next s => some s.returned
  | _ => none

/-- The registers of the tables of spec/95 section 8: ph, ix, crc, run, prev, sp, ltag, opos, mode. -/
def regs (o : Host.Outcome State Fault Refusal) : Option (List Nat) :=
  match o with
  | .next s => some [s.ph.toNat, s.ix.toNat, s.crc.toNat, s.run.toNat, s.prev.toNat, s.sp.toNat, s.ltag.toNat,
      s.opos.toNat, s.mode.toNat]
  | _ => none

/-- The beats sent: bit, stuff, field, last. -/
def beats (o : Host.Outcome State Fault Refusal) : Option (List (List Nat)) :=
  match o with
  | .next s => some (s.sent.map fun b => [b.bit.toNat, b.stuff.toNat, b.field.toNat, b.last.toNat])
  | _ => none

/-- The refusal, if there is one. -/
def refusal (o : Host.Outcome State Fault Refusal) : Option Refusal :=
  match o with
  | .refused r => some r
  | _ => none

/-- The fault, if there is one. -/
def faultOf (o : Host.Outcome State Fault Refusal) : Option Fault :=
  match o with
  | .fault f => some f
  | _ => none

/-- A frame of identifier 0x123 in progress (program P1), the consumer ready. -/
def running (ph : BitVec 4) (ix : BitVec 6) (crc : BitVec 15) (run : BitVec 3) (prev sp : Bit) (ltag : BitVec 4)
    (opos : BitVec 7) : State :=
  { State.reset with
    mode := 1, dId := 0x123, ph := ph, ix := ix, crc := crc, run := run, prev := prev, sp := sp, ltag := ltag,
    opos := opos }

/-- A command offered in the reset state, the consumer ready. -/
def offeringReset (w : BitVec 89) : State := State.reset.offering w

/-- The descriptor of vector F. -/
def vectorF : Descriptor := ⟨0x2AA, 1, [0xE0], false⟩

/-- The descriptor of vector A. -/
def vectorA : Descriptor := ⟨0x123, 0, [], false⟩

/-- The command of vector A. -/
def commandA : Command := ⟨0, 0, 0, 0x123, 0⟩

/-! ### Well-formedness: each check refuses an ill-formed term -/

theorem test_wf_data_identifier : (Instr.encData (.command 0 0 0x800 0)).wellFormed = false := by decide
theorem test_wf_remote_dlc : (Instr.encRemote (.command 0 9 0x7FF 0)).wellFormed = false := by decide
theorem test_wf_illegalId : (Instr.illegalId ⟨0, 0, 0, 0x7FF, 0⟩).wellFormed = false := by decide
theorem test_wf_illegalDlc_dlc : (Instr.illegalDlc ⟨0, 8, 0, 0x7FF, 0⟩).wellFormed = false := by decide
theorem test_wf_illegalDlc_identifier : (Instr.illegalDlc ⟨0, 9, 0, 0x800, 0⟩).wellFormed = false := by decide
theorem test_wf_int2bits : (Instr.int2bits 16 4).wellFormed = false := by decide
theorem test_wf_bytes2bits : (Instr.bytes2bits [0, 256]).wellFormed = false := by decide
theorem test_wf_stuffStep : (Instr.stuffStep 5 0 [] [] 0).wellFormed = false := by decide
theorem test_wf_destuff_order : (Instr.destuff [0, 1, 0] [2, 1]).wellFormed = false := by decide
theorem test_wf_destuff_range : (Instr.destuff [0, 1, 0] [1, 3]).wellFormed = false := by decide

/-! ### Decoding: words written bit by bit from R71 and R79 -/

/-- nbytes 0010, dlc 0010, rtr 0, id 0x0555, data AA 55 (vector D). -/
theorem test_decode_encData : decodeTableWord 89 (0b0010 * 2 ^ 85 + 0b0010 * 2 ^ 81 + 0b0 * 2 ^ 80 +
    0b0000010101010101 * 2 ^ 64 + 0b1010101001010101 * 2 ^ 48) =
    some (.encData (.command 2 2 0x555 0xAA55000000000000)) := by decide

/-- nbytes 0000, dlc 1000, rtr 1, id 0x07FF. -/
theorem test_decode_encRemote : decodeTableWord 96 (0b1000 * 2 ^ 81 + 2 ^ 80 + 0b11111111111 * 2 ^ 64) =
    some (.encRemote (.command 0 8 0x7FF 0)) := by decide

/-- CMD[75] alone makes the identifier illegal, and it is tested before the dlc (row E3). -/
theorem test_decode_illegalId : decodeTableWord 96 (0b1111 * 2 ^ 81 + 2 ^ 75) =
    some (.illegalId ⟨0, 15, 0, 0x800, 0⟩) := by decide

/-- dlc 1001, id 0x07FF (row E2). -/
theorem test_decode_illegalDlc : decodeTableWord 96 (0b1001 * 2 ^ 81 + 0x7FF * 2 ^ 64) =
    some (.illegalDlc ⟨0, 9, 0, 0x7FF, 0⟩) := by decide

/-- `SEL = 010pppp` for the twelve phases (R79). -/
theorem test_decode_phases : (List.range 16).map (fun p => decodeTableWord 7 (0b0100000 + p)) =
    [some .phSof, some .phId, some .phRtr, some .phIde, some .phR0, some .phDlc, some .phData, some .phCrc,
     some .phCrcDel, some .phAck, some .phAckDel, some .phEof, none, none, none, none] := by decide

/-- `00xxxxx`, `011xxxx`, `10xxxxx`, `11xxxxx` (R79). -/
theorem test_decode_modes : [0b0011111, 0b0111111, 0b1011111, 0b1100000].map (decodeTableWord 8) =
    [some .accept, some .stuffBeat, some .errBeat, none] := by decide

/-- No format of the table is two bytes long, and no bit stands above the 89. -/
theorem test_decode_rejects : decodeTableWord 16 0 = none ∧ decodeTableWord 96 (2 ^ 89) = none := by decide

/-- The notation of R83 (vector H of spec/95: `CMD = 0x0450321dead000000000000`), and the defaults. -/
theorem test_notation : (Command.ofNotation 0x321 2 [0xDE, 0xAD] 1).toWord = 0x0450321dead000000000000 ∧
    (Command.ofNotation 0x123 0 []).toWord = 0x1230000000000000000 := by decide

/-- The parameters of R8 and R9 agree with each other and with the widths in use: the sums R8 gives for
`PRE_FIXED_LEN` and `TAIL_LEN`, the packing of R71, and R82's longest frame. -/
theorem test_parameters : Config.preFixedLen = 1 + Config.idW + 1 + 1 + 1 + Config.dlcW ∧
    Config.tailLen = Config.crcW + 1 + 1 + 1 + Config.eofLen ∧
    Config.cmdW = Config.nbytesW + Config.dlcW + 1 + Config.idPortW + Config.byteW * Config.nLanes ∧
    Config.maxPreStuffed = Config.preFixedLen + Config.byteW * Config.dlcMax + 16 ∧
    Config.maxLen = Config.maxPreStuffed + Config.tailLen ∧
    11 < 2 ^ Config.fieldW ∧ 4 < 2 ^ Config.errW := by decide

/-- A word placed by `withFetchWord` is what the next step runs: ACCEPT of vector A (44_stream R160). -/
theorem test_fetch_command : regs (step (State.reset.withFetchWord 96 0x00001230000000000000000)) =
    regs (exec (.encData (.command 0 0 0x123 0)) State.reset) := by decide

/-- PH.DATA from reset: the fetch gives the phase a bit. -/
theorem test_fetch_phData : beats (step (State.reset.withFetchWord 8 0b0100110)) = some [[0, 0, 6, 0]] := by decide

/-! ### Bit vectors (spec/95 section 2) -/

theorem test_int2bits : returnedBy (exec (.int2bits 0x123 11) State.reset) =
    some (.bits [0, 0, 1, 0, 0, 1, 0, 0, 0, 1, 1]) := by decide
theorem test_int2bits_refused : refusal (exec (.int2bits 0x800 11) State.reset) =
    some (.valueOutOfWidth 0x800 11) := by decide
theorem test_bytes2bits : returnedBy (exec (.bytes2bits [0xA5, 0x3C]) State.reset) =
    some (.bits [1, 0, 1, 0, 0, 1, 0, 1, 0, 0, 1, 1, 1, 1, 0, 0]) := by decide
theorem test_bytes2bits_refused : refusal (exec (.bytes2bits [0, 256]) State.reset) =
    some (.byteOutOfRange [0, 256]) := by decide
theorem test_concat : returnedBy (exec (.concat [[0], [], [1, 0], [1]]) State.reset) =
    some (.bits [0, 1, 0, 1]) := by decide
theorem test_bits2int : returnedBy (exec (.bits2int [1, 0, 1, 0, 1, 0, 0, 0, 0, 0, 1, 1, 0, 0, 1]) State.reset) =
    some (.number 0x5419) := by decide

/-! ### CRC (41_crc15 R111, spec/95 section 3) -/

theorem test_crcInit : returnedBy (exec .crcInit State.reset) = some (.crc 0) := by decide
theorem test_crcStep_reduces : returnedBy (exec (.crcStep 0x4599 1) State.reset) = some (.crc 0x4EAA) := by decide
theorem test_crcStep_first_reduction : returnedBy (exec (.crcStep 0x4000 0) State.reset) =
    some (.crc 0x4599) := by decide
theorem test_crc15 : returnedBy (exec (.crc15 [0, 0, 0, 1, 0, 0, 1, 0, 0, 0, 1, 1, 0, 0, 0, 0, 0, 0, 0]) State.reset) =
    some (.crc 0x5419) := by decide +kernel

/-! ### Stuffing (spec/95 section 4) -/

theorem test_stuffInit : returnedBy (exec .stuffInit State.reset) = some (.stuffState ⟨0, 0, [], []⟩) := by decide
theorem test_stuffStep : returnedBy (exec (.stuffStep 4 0 [0, 0, 0, 0] [] 0) State.reset) =
    some (.stuffState ⟨0, 0, [0, 0, 0, 0, 0, 1], [5]⟩) := by decide
theorem test_stuffStep_refused : refusal (exec (.stuffStep 5 0 [] [] 0) State.reset) =
    some (.stuffRunOutOfRange 5) := by decide
theorem test_stuff : returnedBy (exec (.stuff [0, 0, 0, 0, 0, 1, 1, 1, 1, 1, 0]) State.reset) =
    some (.stuffed ⟨[0, 0, 0, 0, 0, 1, 1, 1, 1, 1, 1, 0, 0], [5, 11]⟩) := by decide
theorem test_stuff_same_value : returnedBy (exec (.stuff [0, 0, 0, 0, 0, 0]) State.reset) =
    some (.stuffed ⟨[0, 0, 0, 0, 0, 1, 0], [5]⟩) := by decide
theorem test_destuff : returnedBy (exec (.destuff [0, 0, 0, 0, 0, 1, 1, 1, 1, 1, 1, 0, 0] [5, 11]) State.reset) =
    some (.bits [0, 0, 0, 0, 0, 1, 1, 1, 1, 1, 0]) := by decide

/-! ### Assembler (spec/95 sections 5 and 7) -/

/-- Row E7: an unused byte is checked all the same. -/
theorem test_validate_unused_byte : returnedBy (exec (.validate ⟨0x100, 1, [0x12, 0x100], false⟩) State.reset) =
    some (.error (.invalidDataByte 1)) := by decide
/-- Row E9, under the pad policy that is not this hardware's. -/
theorem test_validate_reject : validateUnder .reject ⟨0x100, 2, [0x12], false⟩ =
    some (.insufficientDataBytes 1 2) := by decide
/-- Vector A. -/
theorem test_encData_call : (match assemble vectorA with | .ok r => (r.bits, r.insertedPositions) | .error _ => ([], [])) =
    ([0,0,0,1,0,0,1,0,0,0,1,1,0,0,0,0,0,1,0,0,1,0,1,0,1,0,0,0,0,0,1,1,0,0,1,1,1,1,1,1,1,1,1,1,1], [17]) := by
  decide +kernel
/-- Vector C, through the call. -/
theorem test_encRemote_call : (match returnedBy (exec (.encRemote (.call 0x7FF 0 [])) State.reset) with
      | some (.frame r) => (r.bits, r.subRanges.map fun x => (x.start, x.stop)) | _ => ([], [])) =
    ([0,1,1,1,1,1,0,1,1,1,1,1,0,1,1,0,0,0,0,0,1,0,0,1,0,1,1,0,0,0,0,1,1,1,1,0,1,1,1,1,1,1,1,1,1,1,1],
     [(0,1), (1,14), (14,15), (15,16), (16,17), (17,22), (22,22), (22,37), (37,38), (38,39), (39,40), (40,47)]) := by
  decide +kernel
/-- Vector F's nine ranges: the stuff bit after the last data bit is inside the data field. -/
theorem test_fieldRanges : (construct vectorF).fieldRanges.map (fun x => (x.start, x.stop)) =
    [(0,1), (1,13), (13,20), (20,29), (29,44), (44,45), (45,46), (46,47), (47,54)] := by decide

/-! ### Commands at the port (44_stream R160; spec/95 section 7) -/

/-- Vector E: the lane at and above `nbytes` is latched as zero. -/
theorem test_encData_pads : (match exec (.encData (.command 1 2 0x100 0x12FF000000000000)) State.reset with
    | .next s => (s.mode, s.dId, s.dDlc, s.dData) | _ => (0, 0, 0, 0)) = (1, 0x100, 2, 0x1200000000000000) := by decide
theorem test_encRemote_latches_rtr : (match exec (.encRemote (.command 2 2 0x321 0xDEAD000000000000)) State.reset with
    | .next s => (s.mode, s.dRtr, s.dData) | _ => (0, 0, 0)) = (1, 1, 0xDEAD000000000000) := by decide
/-- Row E4: all sixteen bits are compared. -/
theorem test_illegalId : (match exec (.illegalId ⟨0, 0, 0, 0xFFFF, 0⟩) State.reset with
    | .next s => (s.mode, s.ecode, s.dId) | _ => (0, 0, 0)) = (2, 1, 0) := by decide
/-- Row E5: nbytes 15 is no error. -/
theorem test_illegalDlc : (match exec (.illegalDlc ⟨15, 15, 1, 0x7FF, 0⟩) State.reset with
    | .next s => (s.mode, s.ecode, s.dDlc) | _ => (0, 0, 0)) = (2, 2, 0) := by decide
/-- Program P1, step 1. -/
theorem test_accept : regs (exec .accept (offeringReset 0x00001230000000000000000)) =
    some [0, 0, 0, 0, 0, 0, 0, 0, 1] := by decide
/-- Program P5: `prev` is not written by ACCEPT. -/
theorem test_accept_keeps_prev : regs (exec .accept { offeringReset 0x00001230000000000000000 with prev := 1, run := 1, opos := 61, crc := 0x3C02, ltag := 11 }) =
    some [0, 0, 0, 0, 1, 0, 0, 0, 1] := by decide

/-! ### Phases: single rows of program P1 (and P2 for DATA) -/

theorem test_phSof : regs (exec .phSof (running 0 0 0 0 0 0 0 0)) = some [1, 0, 0, 1, 0, 0, 0, 1, 1] := by decide
theorem test_phId : regs (exec .phId (running 1 2 0 3 0 0 1 3)) = some [1, 3, 1, 1, 1, 0, 1, 4, 1] := by decide
theorem test_phId_last : regs (exec .phId (running 1 10 0x0091 1 1 0 1 11)) =
    some [2, 0, 0x0123, 2, 1, 0, 1, 12, 1] := by decide
theorem test_phRtr : regs (exec .phRtr (running 2 0 0x0123 2 1 0 1 12)) =
    some [3, 0, 0x0246, 1, 0, 0, 2, 13, 1] := by decide
theorem test_phIde : regs (exec .phIde (running 3 0 0x0246 1 0 0 2 13)) =
    some [4, 0, 0x048C, 2, 0, 0, 3, 14, 1] := by decide
theorem test_phR0 : regs (exec .phR0 (running 4 0 0x048C 2 0 0 3 14)) = some [5, 0, 0x0918, 3, 0, 0, 4, 15, 1] := by decide
theorem test_phDlc_sets_sp : regs (exec .phDlc (running 5 1 0x1230 4 0 0 5 16)) =
    some [5, 2, 0x2460, 0, 0, 1, 5, 17, 1] := by decide
theorem test_phDlc_skips_data : regs (exec .phDlc (running 5 3 0x48C0 1 0 0 5 19)) =
    some [7, 0, 0x5419, 2, 0, 0, 5, 20, 1] := by decide
/-- Program P2, step 29: the last data bit sets `sp` and moves on to the CRC. -/
theorem test_phData : regs (exec .phData { running 6 7 0x07D2 4 0 0 6 27 with dId := 0x2AA, dDlc := 1, dData := 0xE000000000000000 }) =
    some [7, 0, 0x0FA4, 0, 0, 1, 6, 28, 1] := by decide
theorem test_phData_beat : beats (exec .phData { running 6 0 0x1BAA 1 1 0 5 20 with dDlc := 1, dData := 0xE000000000000000 }) =
    some [[1, 0, 6, 0]] := by decide
theorem test_phCrc : regs (exec .phCrc (running 7 14 0x5419 2 0 0 7 34)) = some [8, 0, 0x5419, 2, 0, 0, 7, 35, 1] := by decide
theorem test_phCrc_beat : beats (exec .phCrc (running 7 4 0x5419 2 0 0 7 24)) = some [[1, 0, 7, 0]] := by decide
theorem test_phCrcDel : regs (exec .phCrcDel (running 8 0 0x5419 2 0 0 7 35)) = some [9, 0, 0x5419, 2, 0, 0, 8, 36, 1] := by decide
theorem test_phAck : beats (exec .phAck (running 9 0 0x5419 2 0 0 8 36)) = some [[1, 0, 9, 0]] := by decide
theorem test_phAckDel : regs (exec .phAckDel (running 10 0 0x5419 2 0 0 9 37)) = some [11, 0, 0x5419, 2, 0, 0, 10, 38, 1] := by decide
theorem test_phEof_last : regs (exec .phEof (running 11 6 0x5419 2 0 0 11 44)) = some [0, 0, 0x5419, 2, 0, 0, 11, 45, 0] := by decide
theorem test_phEof_last_beat : beats (exec .phEof (running 11 6 0x5419 2 0 0 11 44)) = some [[1, 0, 11, 1]] := by decide
/-- Program P2, step 30: the inserted bit reports the data field although `ph` is CRC already. -/
theorem test_stuffBeat : beats (exec .stuffBeat (running 7 0 0x0FA4 0 0 1 6 28)) = some [[1, 1, 6, 0]] := by decide
theorem test_stuffBeat_regs : regs (exec .stuffBeat (running 7 0 0x0FA4 0 0 1 6 28)) =
    some [7, 0, 0x0FA4, 0, 0, 0, 6, 29, 1] := by decide
/-- Program P3, step 2: after the error beat the registers are those of reset. -/
theorem test_errBeat : exec .errBeat { State.reset with mode := 2, ecode := 1 } =
    .next { State.reset with sent := [⟨1, 1, 0, 0, 0, 1⟩] } := rfl
theorem test_notSelected : refusal (exec .phSof (running 1 0 0 0 0 0 0 0)) = some .notSelected := by decide
theorem test_stuck_position : faultOf (exec .phSof (running 0 1 0 0 0 0 0 0)) = some .positionOutOfPhase := by decide
/-- Program P4, step 12: reset in mid-frame keeps the beats sent and nothing else. -/
theorem test_reset_edge : step { running 1 8 0 4 0 0 1 10 with pins := ⟨1, 0, commandA, 1⟩, sent := [⟨0, 0, 1, 1, 1, 0⟩] } =
    .next { State.reset with pins := ⟨1, 0, commandA, 1⟩, sent := [⟨0, 0, 1, 1, 1, 0⟩] } := rfl
theorem test_labels : SubField.label .r0 = some "r0" ∧ TopField.label .ackSlot = "ACK Slot" := ⟨rfl, rfl⟩

/-! ### Witnesses: states and operands that meet each statement's hypotheses, at boundary values -/

/-- IDLE with the command of vector A offered. -/
def idleA : State := { State.reset with pins := ⟨0, 1, commandA, 1⟩ }
/-- IDLE with an illegal identifier and an illegal dlc offered. -/
def idleBad (c : Command) : State := { State.reset with pins := ⟨0, 1, c, 1⟩ }
/-- A pending stuff beat of vector A (program P1 before step 19), with the beats sent so far. -/
def pendingA : State :=
  { running 5 2 0x2460 0 0 1 5 17 with sent := (construct vectorA).response.take 17 }
/-- An error beat pending. -/
def errState : State := { State.reset with mode := 2, ecode := 1 }
/-- The dominant-run example of R126, `0000011111`. -/
def sixRun : BitSeq := [0, 0, 0, 0, 0, 1, 1, 1, 1, 1]

theorem witness_Int2BitsListsTheBitsMsbFirst : 0x7FF < 2 ^ 11 ∧ 0 < 2 ^ 0 := by decide
theorem witness_Int2BitsRefusesOutsideItsWidth :
    2 ^ 11 ≤ 0x800 ∧ validate ⟨2047, 8, [255], true⟩ = none := by decide
theorem witness_Bytes2BitsListsEachByteMsbFirst :
    (∀ x ∈ [255, 0], x ≤ 255) ∧ (∃ x ∈ [0, 256], 255 < x) ∧ validate ⟨2047, 8, [255], true⟩ = none := by decide
theorem witness_ConcatPlacesEachSequenceInOrder :
    ([[], [0, 1]] : List BitSeq)[1]? = some [0, 1] ∧ 1 < ([0, 1] : BitSeq).length := by decide
theorem witness_Bits2IntInvertsInt2Bits : 0x5419 < 2 ^ 15 := by decide
theorem witness_Crc15IsLinearAndSelfChecking :
    (List.replicate 15 (1 : Bit)).length ≤ 15 ∧ ([0, 1] : BitSeq).length = ([1, 1] : BitSeq).length := by decide
theorem witness_StuffStepCopiesAndInserts : 4 ≤ 4 := by decide
theorem witness_StuffStepRefusesARunOfFive : 5 ≤ 5 := by decide
theorem witness_InsertedPositionsFollowFiveEqualCopies :
    5 ∈ (stuff sixRun).insertedPositions ∧ 11 ∈ (stuff sixRun).insertedPositions ∧ 5 < 11 := by decide
theorem witness_StuffOfAPrefixIsAPrefix :
    5 ≤ sixRun.length ∧ 0 < 5 ∧ (stuffRun (sixRun.take 5)).run = 0 := by decide
theorem witness_StuffedRunsHaveAtMostSixBits :
    let S := (stuff sixRun).stuffedBits
    (0 + 7 ≤ S.length) ∧
    (5 + 6 ≤ S.length ∧ ∀ j, j < 6 → S[5 + j]? = S[5]?) ∧
    (0 ∉ (stuff sixRun).insertedPositions ∧ 0 + 6 ≤ S.length) ∧
    (5 + 5 ≤ sixRun.length ∧ (∀ k, k < 5 → sixRun[5 + k]? = sixRun[5]?) ∧ sixRun[5 - 1]? ≠ sixRun[5]? ∧
      sixRun[5 + 5]? ≠ sixRun[5]?) := by decide
theorem witness_StuffedPositionOfAFieldEnd : sixRun ≠ [] ∧ 5 ≤ sixRun.length ∧ 9 < sixRun.length := by decide
theorem witness_ValidateReportsTheFirstCause :
    2047 < (⟨2048, 9, [256], false⟩ : Descriptor).identifier ∧
    ((⟨2047, 9, [256], false⟩ : Descriptor).identifier ≤ 2047 ∧ 8 < (⟨2047, 9, [256], false⟩ : Descriptor).dlc) ∧
    ([0, 256][1]? = some 256 ∧ 255 < 256 ∧ ∀ j, j < 1 → ∀ y ∈ [0, 256][j]?, y ≤ 255) ∧
    (∀ x ∈ [255], x ≤ 255) ∧
    validateUnder .zeroPad ⟨2048, 0, [], false⟩ = some (.invalidIdentifier 2048) ∧
    validateUnder .zeroPad ⟨2047, 8, [255], false⟩ = none := by decide
theorem witness_UnstuffedSequenceHasTheFieldMap :
    validate ⟨2047, 8, [255], true⟩ = none ∧ validate ⟨0, 0, [], false⟩ = none := by decide
theorem witness_EncodingCallsGiveTheFrame :
    validate ⟨2048, 0, [], true⟩ = some (.invalidIdentifier 2048) ∧ validate ⟨2047, 8, [255], false⟩ = none := by
  decide
theorem witness_FrameLengthCountsTheInsertedBits : assemble vectorF = .ok (construct vectorF) := rfl
theorem witness_InsertedBitsPerDlcHaveTheTabledBounds :
    assemble vectorA = .ok (construct vectorA) ∧ insertionBounds[8]? = some (0, 16) := ⟨rfl, rfl⟩
theorem witness_RangesTileTheFrame : assemble vectorA = .ok (construct vectorA) := rfl
theorem witness_InsertedBitBelongsToTheFieldBeforeIt :
    assemble vectorF = .ok (construct vectorF) ∧ 28 ∈ (construct vectorF).insertedPositions :=
  ⟨rfl, by decide +kernel⟩
theorem witness_UnstuffedSequenceIsRecovered :
    assemble vectorF = .ok (construct vectorF) ∧ 16 ∈ (construct vectorF).insertedPositions :=
  ⟨rfl, by decide +kernel⟩
theorem witness_FrameDependsOnUsedBytesOnly :
    (∀ x ∈ [0x12], x ≤ 255) ∧ (∀ x ∈ [0x12, 0, 7], x ≤ 255) ∧
    ∀ k, k < 2 → [0x12].getD k 0 = [0x12, 0, 7].getD k 0 := by decide
theorem witness_EmptyDataFieldIsKept :
    vectorA.dlc = 0 ∧ assemble vectorA = .ok (construct vectorA) ∧ (∃ x ∈ [256], 255 < x) := ⟨rfl, rfl, by decide⟩
theorem witness_CommandWordSelectsOneOfFourOperations :
    (0x00008000000000000000000 : BitVec 89).extractLsb' 75 5 ≠ 0 ∧
    ((0x01207ff0000000000000000 : BitVec 89).extractLsb' 75 5 = 0 ∧
      8 < (0x01207ff0000000000000000 : BitVec 89).extractLsb' 81 4) ∧
    ((0x01007ff0000000000000000 : BitVec 89).extractLsb' 81 4 ≤ 8 ∧
      (0x01007ff0000000000000000 : BitVec 89).getLsbD 80 = false) ∧
    (0x01107ff0000000000000000 : BitVec 89).getLsbD 80 = true := by decide
theorem witness_DecodeOfEncodeIsTheInstruction :
    (Instr.encData (.command 15 8 0x7FF 0)).wellFormed = true ∧
    (Instr.illegalDlc ⟨0, 15, 1, 0x7FF, 0⟩).wellFormed = true := by decide
theorem witness_AcceptStartsAFrame :
    idleA.mode = 0 ∧ idleA.stuck? = none ∧ commandA.id.toNat ≤ 0x07FF ∧ commandA.dlc.toNat ≤ 8 ∧ commandA.rtr = 0 ∧
    (⟨0, 8, 1, 0x7FF, 0⟩ : Command).rtr = 1 ∧ idleA.pins.cmdValid = 1 ∧ idleA.pins.cmd = commandA := by decide
theorem witness_InvalidCommandRaisesItsError :
    (idleBad ⟨0, 9, 0, 0x800, 0⟩).stuck? = none ∧ 0x07FF < (⟨0, 9, 0, 0x800, 0⟩ : Command).id.toNat ∧
    (idleBad ⟨0, 9, 0, 0x7FF, 0⟩).pins.cmdValid = 1 ∧ (⟨0, 9, 0, 0x7FF, 0⟩ : Command).id.toNat ≤ 0x07FF ∧
    8 < (⟨0, 9, 0, 0x7FF, 0⟩ : Command).dlc.toNat := by decide
theorem witness_AcceptRunsTheDecodedCommand : idleA.mode = 0 ∧ idleA.pins.cmdValid = 1 := by decide
theorem witness_PortErrorsAreIdentifierOrDlc :
    validate (descriptorOf ⟨0, 9, 0, 0x7FF, 0⟩) = some (.invalidDlc 9) ∧
    validate (descriptorOf ⟨15, 8, 0, 0x7FF, 0⟩) = none := by decide
theorem witness_NothingChangesWithoutAHandshake :
    (State.reset.mode = 0 ∧ State.reset.stuck? = none ∧ State.reset.calls = [] ∧ State.reset.pins.rst ≠ 1 ∧
      State.reset.pins.cmdValid ≠ 1) ∧
    (pendingA.mode ≠ 0 ∧ pendingA.stuck? = none ∧ pendingA.calls = [] ∧
      ({ pendingA with pins := ⟨0, 1, commandA, 0⟩ } : State).pins.outReady ≠ 1) := by decide +kernel
theorem witness_PreCrcPhasesEmitTheirBits :
    [(0 : BitVec 4), 1, 2, 3, 4, 5].all (fun p => decide ((running p 0 0 0 0 0 0 0).stuck? = none)) = true ∧
    ({ running 6 63 0 4 0 0 6 0 with dDlc := 8 } : State).stuck? = none ∧
    (running 1 10 0 4 0 0 1 0).stuck? = none ∧ (running 1 10 0 4 0 0 1 0).pins.outReady = 1 := by decide
theorem witness_TailPhasesEmitTheirBits :
    (running 7 14 0 0 0 0 7 0).stuck? = none ∧ (running 8 0 0 0 0 0 7 0).stuck? = none ∧
    (running 9 0 0 0 0 0 7 0).stuck? = none ∧ (running 10 0 0 0 0 0 7 0).stuck? = none ∧
    (running 11 6 0 0 0 0 7 0).stuck? = none ∧ (7 : BitVec 4) ≤ (running 11 6 0 0 0 0 7 0).ph := by decide
theorem witness_StuffBeatEmitsTheComplementFirst :
    pendingA.mode = 1 ∧ pendingA.sp = 1 ∧ pendingA.pins.outReady = 1 ∧ pendingA.stuck? = none ∧
    pendingA.calls = [] ∧ pendingA.pins.rst ≠ 1 := by decide +kernel
theorem witness_ErrorBeatReportsTheCodeAndReturns :
    errState.mode = 2 ∧ errState.pins.outReady = 1 ∧ errState.stuck? = none := by decide
theorem witness_OfferedBeatIsTheTransferredBeat :
    (errState.calls = [] ∧ errState.pins.rst ≠ 1 ∧ errState.stuck? = none ∧ errState.mode ≠ 0) ∧
    (idleA.mode = 0 ∧ idleA.stuck? = none ∧ idleA.pins.rst ≠ 1) ∧
    ({ errState with pins := ⟨0, 0, commandA, 0⟩ } : State).pins.outReady ≠ 1 := by decide
theorem witness_ResetEdgeGivesTheResetState :
    ({ errState with pins := ⟨1, 1, commandA, 1⟩ } : State).calls = [] ∧
    ({ errState with pins := ⟨1, 1, commandA, 1⟩ } : State).pins.rst = 1 := by decide
theorem witness_StepRunsTheSelectedOperation :
    ({ idleA with calls := [.crcInit] } : State).calls = .crcInit :: [] ∧
    (idleA.calls = [] ∧ idleA.pins.rst ≠ 1 ∧ decode (.select idleA.select) = .ok .accept ∧
      exec .accept idleA = .next (idleA.startFrame commandA)) ∧
    faultOf (exec .phSof (running 0 1 0 0 0 0 0 0)) = some .positionOutOfPhase ∧
    (idleA.mode = 0 ∧ idleA.pins.cmdValid = 1 ∧
      exec (decodeCommand idleA.pins.cmd.toWord) idleA = .next (idleA.startFrame commandA)) ∧
    idleA.future = [] ∧ ({ idleA with future := [Pins.initial] } : State).future = Pins.initial :: [] :=
  ⟨rfl, ⟨rfl, by decide, rfl, rfl⟩, by decide, ⟨rfl, rfl, rfl⟩, rfl, rfl⟩
theorem witness_UnreachableSelectionIsStuck :
    ({ errState with mode := 3 } : State).mode = 3 ∧
    ((running 12 0 0 0 0 0 0 0).mode = 1 ∧ (running 12 0 0 0 0 0 0 0).sp = 0 ∧
      (12 : BitVec 4) ≤ (running 12 0 0 0 0 0 0 0).ph) ∧ (running 12 0 0 0 0 0 0 0).pins.rst ≠ 1 := by decide
/-- A state with a frame in progress and a stuff beat pending meets the invariant. -/
theorem witness_inv_running : pendingA.Inv :=
  ⟨by decide, .inr ⟨[], ⟨by decide, by decide, by decide, by decide, by decide +kernel, by decide +kernel,
    by decide, by decide +kernel, by
      intro _
      exact ⟨by decide, by decide, by decide +kernel, ⟨0, 0, 0, 0, 5, 0⟩, by decide +kernel, rfl, rfl, rfl⟩,
    by decide +kernel⟩⟩⟩
/-- A state with an error beat pending meets the invariant. -/
theorem witness_inv_error : errState.Inv := ⟨by decide, .inl ⟨by decide, rfl, rfl, rfl, by decide⟩⟩
theorem witness_StepKeepsTheInvariant :
    pendingA.Inv ∧ step pendingA = .next pendingA.emitStuffed ∧ errState.Inv ∧
      step errState = .next errState.returnFromError :=
  ⟨witness_inv_running, rfl, witness_inv_error, rfl⟩
theorem witness_InvariantGivesTheStateInvariants : pendingA.Inv ∧ pendingA.sp = 1 := ⟨witness_inv_running, rfl⟩
theorem witness_StatesReachedFromResetMeetTheStateInvariants :
    Host.Core.run Sys2Proof.core 1 { State.reset with pins := idleA.pins, future := [], calls := [] }
      = .next (idleA.startFrame commandA) := rfl
theorem witness_NoStuckStateFromTheInvariant : pendingA.Inv ∧ pendingA.calls = [] := ⟨witness_inv_running, rfl⟩
theorem witness_StreamEqualsAssemble :
    idleA.mode = 0 ∧ idleA.stuck? = none ∧ idleA.calls = [] ∧ idleA.future = [] ∧
    idleA.pins = { rst := 0, cmdValid := 1, cmd := commandA, outReady := 1 } ∧
    assemble (descriptorOf commandA) = .ok (construct (descriptorOf commandA)) ∧
    44 < (construct (descriptorOf commandA)).bits.length :=
  ⟨rfl, rfl, rfl, rfl, rfl, rfl, by decide +kernel⟩
theorem witness_PacingNeverChangesTheResponse :
    let s : State := { idleA with future := [⟨0, 1, commandA, 0⟩, ⟨0, 0, commandA, 1⟩] }
    s.mode = 0 ∧ s.stuck? = none ∧ s.calls = [] ∧ s.pins.cmdValid = 1 ∧ s.pins.cmd = commandA ∧
    assemble (descriptorOf commandA) = .ok (construct (descriptorOf commandA)) ∧
    (∀ j, j ≤ 3 → (s.pinsAt j).rst = 0) ∧ s.readyEdges 3 = 2 ∧
    2 ≤ (construct (descriptorOf commandA)).bits.length :=
  ⟨rfl, rfl, rfl, rfl, rfl, rfl, by decide, by decide, by decide +kernel⟩
theorem witness_ErrorLeavesOnlyItsBeat :
    (idleBad ⟨0, 9, 0, 0x7FF, 0⟩).stuck? = none ∧ (idleBad ⟨0, 9, 0, 0x7FF, 0⟩).mode = 0 ∧
    (idleBad ⟨0, 9, 0, 0x7FF, 0⟩).future = [] ∧
    assemble (descriptorOf ⟨0, 9, 0, 0x7FF, 0⟩) = .error (.invalidDlc 9) := ⟨rfl, rfl, rfl, rfl⟩
theorem witness_CommandInputsAreReadOnlyWhenAccepted :
    ({ errState with future := [Pins.initial] } : State).calls = [] ∧
    ({ errState with future := [Pins.initial] } : State).future = Pins.initial :: [] ∧
    errState.mode ≠ 0 ∧ errState.pins.cmdValid ≠ 1 ∧
    (let s : State := { State.reset with pins := ⟨1, 1, commandA, 0⟩, future := [Pins.initial] }
     s.calls = [] ∧ s.future = Pins.initial :: [] ∧ s.mode = 0 ∧ s.pins.cmdValid = 1 ∧ s.pins.rst = 1) := by decide
theorem witness_FunctionCallsHaveNoState :
    exec (Call.toInstr (.crcStep 0x4599 1)) errState = .next (errState.give (.crc 0x4EAA)) := rfl
theorem witness_RegistersAreWrittenOnlyByTheirWriters :
    (step idleA = .next (idleA.startFrame commandA) ∧ idleA.pins.rst ≠ 1 ∧
      (idleA.startFrame commandA).dId ≠ idleA.dId ∧ (idleA.startFrame commandA).mode ≠ idleA.mode) ∧
    (step (running 5 1 0x1230 4 0 0 5 16) = .next ((running 5 1 0x1230 4 0 0 5 16).emitCopied 0) ∧
      ((running 5 1 0x1230 4 0 0 5 16).emitCopied 0).crc ≠ 0x1230) ∧
    (step errState = .next errState.returnFromError ∧ errState.returnFromError.ecode ≠ errState.ecode) :=
  ⟨⟨rfl, by decide, by decide, by decide⟩, ⟨rfl, by decide⟩, ⟨rfl, by decide⟩⟩

end Sys2Proof.Tests
end

namespace Sys2Proof.Machine

/-! ### Function-level calls (R26) -/

/-- `assemble` gives its result or its error, whatever the state (R26). -/
theorem giveFrame_eq_give (d : Descriptor) : ∃ v, ∀ s : State, s.giveFrame d = s.give v := by
  unfold State.giveFrame
  cases assemble d with
  | ok r => exact ⟨_, fun _ => rfl⟩
  | error e => exact ⟨_, fun _ => rfl⟩

/-- A call either gives one value, the same in every state, or is refused in every state (R26). -/
theorem exec_call_cases (c : Call) :
    (∃ v, ∀ s, exec c.toInstr s = .next (s.give v)) ∨
    ∀ s, ∃ r, exec c.toInstr s = .refused r := by
  cases c with
  | encData i n bs =>
    obtain ⟨v, hv⟩ := giveFrame_eq_give ⟨i, n, bs, false⟩
    exact .inl ⟨v, fun s => congrArg _ (hv s)⟩
  | encRemote i n bs =>
    obtain ⟨v, hv⟩ := giveFrame_eq_give ⟨i, n, bs, true⟩
    exact .inl ⟨v, fun s => congrArg _ (hv s)⟩
  | int2bits value width =>
    by_cases h : value < 2 ^ width
    · exact .inl ⟨.bits (msbFirst width value), fun s => by
        simp [exec, Call.toInstr, execInt2Bits, intToBits_of_lt h]⟩
    · exact .inr fun s => ⟨.valueOutOfWidth value width, by
        simp [exec, Call.toInstr, execInt2Bits, intToBits_of_ge (Nat.not_lt.mp h)]⟩
  | bytes2bits bytes =>
    cases h : bytesToBits bytes with
    | some b => exact .inl ⟨.bits b, fun s => by simp [exec, Call.toInstr, execBytes2Bits, h]⟩
    | none => exact .inr fun s => ⟨.byteOutOfRange bytes, by
        simp [exec, Call.toInstr, execBytes2Bits, h]⟩
  | stuffStep run prev out ins b =>
    by_cases h : run ≤ 4
    · exact .inl ⟨_, fun s => if_pos h⟩
    · exact .inr fun s => ⟨_, if_neg h⟩
  | validate d =>
    cases h : validate d with
    | none => exact .inl ⟨.accepted, fun s => by simp [exec, Call.toInstr, execValidate, h]⟩
    | some e => exact .inl ⟨.error e, fun s => by simp [exec, Call.toInstr, execValidate, h]⟩
  | concat _ | bits2int _ | crcInit | crcStep _ _ | crc15 _ | stuffInit | stuff _ | destuff _ _ =>
    exact .inl ⟨_, fun _ => rfl⟩

/-- All that a call can do when it completes: give a value that no state changes (R26). -/
theorem exec_call_eq_next {c : Call} {s t : State} (h : exec c.toInstr s = .next t) :
    ∃ v, t = s.give v ∧ ∀ u, exec c.toInstr u = .next (u.give v) := by
  rcases exec_call_cases c with ⟨v, hv⟩ | hr
  · rw [hv s] at h
    cases h
    exact ⟨v, rfl, hv⟩
  · obtain ⟨r, hr⟩ := hr s
    rw [hr] at h
    cases h

/-- Settles O59: a call that completes has given a value, the same one from every state. -/
theorem functionCallsHaveNoState : Obligations.FunctionCallsHaveNoState := by
  intro c s t h
  obtain ⟨v, rfl, hv⟩ := exec_call_eq_next h
  exact ⟨rfl, hv⟩

/-! ### What an edge does, by mode (R79, R160 to R180) -/

/-- The source bit of the phase at `(ph, ix)` (R162 to R173); the bit `State.offered` shows there
(`offered_of_run`) and the phase operation emits (`exec_phase`). -/
def State.sourceBit (s : State) : Bit :=
  match s.ph.toNat with
  | 1 => s.idBit
  | 2 => s.dRtr
  | 5 => s.dlcBit
  | 6 => s.dataBit
  | 7 => s.crcBit
  | 8 => Config.crcDelBit
  | 9 => Config.ackBit
  | 10 => Config.ackDelBit
  | 11 => Config.eofBit
  | _ => 0

/-- What the operation selected in `s` does at an edge without reset (`step_eq_edgeEffect`,
`step_eq_next`). -/
def State.edgeEffect (s : State) : State :=
  if s.mode = modeIdle then
    if s.pins.cmdValid = 1 then s.acceptCommand s.pins.cmd else s
  else if s.pins.outReady ≠ 1 then s
  else if s.mode = modeErr then s.returnFromError
  else if s.sp = 1 then s.emitStuffed
  else s.emitCopied s.sourceBit

theorem bit_cases (b : Bit) : b = 0 ∨ b = 1 := by revert b; decide

theorem mode_cases (m : BitVec 2) : m = modeIdle ∨ m = modeRun ∨ m = modeErr ∨ m = 3 := by
  revert m; decide

/-- A phase that has a bit at `ix` has one of the twelve codes of R77. -/
theorem ph_le_of_lt_phLen {ph : BitVec 4} {n : Nat} {dlc : BitVec 4} (h : n < phLen ph dlc) :
    ph ≤ 11 := by
  by_contra hp
  have : phLen ph dlc = 0 := by
    have : ph = 12 ∨ ph = 13 ∨ ph = 14 ∨ ph = 15 := by clear h; revert ph; decide
    rcases this with rfl | rfl | rfl | rfl <;> rfl
  omega

/-- A copied-bit beat that is due has a bit to emit (R33, U16). -/
theorem ix_lt_of_not_stuck {s : State} (h : s.stuck? = none) (hm : s.mode = modeRun) (hs : s.sp = 0) :
    s.ix.toNat < phLen s.ph s.dDlc := by
  obtain ⟨-, -, -, -, hpos⟩ := stuck_eq_none_iff.mp h
  exact hpos hm hs

/-- The twelve phase codes (R77). -/
theorem ph_cases {ph : BitVec 4} (h : ph ≤ 11) :
    ph = 0 ∨ ph = 1 ∨ ph = 2 ∨ ph = 3 ∨ ph = 4 ∨ ph = 5 ∨ ph = 6 ∨ ph = 7 ∨ ph = 8 ∨ ph = 9 ∨
      ph = 10 ∨ ph = 11 := by
  revert ph; decide

/-- Every phase operation is `EMIT` of its phase's source bit (R162 to R173). -/
theorem exec_phase {s : State} (h : s.ph ≤ 11) :
    ∃ i, decodePhase s.ph = some i ∧ exec i s = execPhase s.ph s.sourceBit s := by
  unfold State.sourceBit
  rcases ph_cases h with e | e | e | e | e | e | e | e | e | e | e | e <;>
    rw [e] <;> exact ⟨_, rfl, rfl⟩

/-- The reserved codes 12 to 15 name no phase (R78). -/
theorem ph_le_of_decodePhase {ph : BitVec 4} {i : Instr} (h : decodePhase ph = some i) : ph ≤ 11 := by
  by_contra hp
  have : decodePhase ph = none := by clear h; revert ph; decide
  rw [this] at h
  cases h

/-- What `s` selects, by mode, `sp` and `ph` (R79). -/
theorem decode_select_eq_ok {s : State} {i : Instr} :
    decode (.select s.select) = .ok i ↔
      (s.mode = modeIdle ∧ i = .accept) ∨ (s.mode = modeErr ∧ i = .errBeat) ∨
      (s.mode = modeRun ∧ s.sp = 1 ∧ i = .stuffBeat) ∨
      (s.mode = modeRun ∧ s.sp = 0 ∧ decodePhase s.ph = some i) := by
  obtain ⟨hm, hs, hp⟩ := select_fields s
  rw [decode, decodeSelect, hm, hs, hp]
  rcases mode_cases s.mode with hm | hm | hm | hm
  · simp [hm, eq_comm (a := Instr.accept)]
  · rcases bit_cases s.sp with hs | hs
    · cases hd : decodePhase s.ph <;> simp [hm, hs]
    · simp [hm, hs, eq_comm (a := Instr.stuffBeat)]
  · simp [hm, eq_comm (a := Instr.errBeat)]
  · simp [hm]

/-- A selected operation is its effect, unless the state is stuck (R79, U16). -/
theorem exec_selected {s : State} {i : Instr} (h : decode (.select s.select) = .ok i) :
    exec i s = s.unlessStuck s.edgeEffect := by
  unfold State.edgeEffect
  rcases decode_select_eq_ok.mp h with ⟨hm, rfl⟩ | ⟨hm, rfl⟩ | ⟨hm, hs, rfl⟩ | ⟨hm, hs, hd⟩
  · simp [exec, execAccept, hm]
  · by_cases hr : s.pins.outReady = 1 <;> simp [exec, execErrBeat, hm, hr]
  · by_cases hr : s.pins.outReady = 1 <;> simp [exec, execStuffBeat, hm, hs, hr]
  · obtain ⟨j, hj, he⟩ := exec_phase (ph_le_of_decodePhase hd)
    obtain rfl : j = i := Option.some.inj (hj.symm.trans hd)
    rw [he]
    by_cases hr : s.pins.outReady = 1 <;> simp [execPhase, hm, hs, hr]

/-- Every state that is not stuck selects an operation (R79, U16). -/
theorem decode_select_of_not_stuck {s : State} (h : s.stuck? = none) :
    ∃ i, decode (.select s.select) = .ok i := by
  simp only [decode_select_eq_ok]
  rcases mode_cases s.mode with hm | hm | hm | hm
  · exact ⟨_, .inl ⟨hm, rfl⟩⟩
  · rcases bit_cases s.sp with hs | hs
    · obtain ⟨i, hi, -⟩ := exec_phase (ph_le_of_lt_phLen (ix_lt_of_not_stuck h hm hs))
      exact ⟨i, .inr (.inr (.inr ⟨hm, hs, hi⟩))⟩
    · exact ⟨_, .inr (.inr (.inl ⟨hm, hs, rfl⟩))⟩
  · exact ⟨_, .inr (.inl ⟨hm, rfl⟩)⟩
  · exact absurd hm (stuck_eq_none_iff.mp h).1

/-- An edge without reset, from a state that is not stuck. -/
theorem step_eq_edgeEffect {s : State} (hc : s.calls = []) (hr : s.pins.rst ≠ 1)
    (hs : s.stuck? = none) : step s = .next s.edgeEffect.nextPins := by
  obtain ⟨i, hi⟩ := decode_select_of_not_stuck hs
  rw [step_of_no_call hc, edge, if_neg hr, hi]
  simp [exec_selected hi, hs, afterEdge]

/-- All that a step can do when it completes: a call gives its value, a reset edge resets, and any other
edge has the effect of the selected operation. -/
theorem step_eq_next {s t : State} (h : step s = .next t) :
    (∃ rest v, t = { s with calls := rest }.give v) ∨
    (s.pins.rst = 1 ∧ t = s.resetRegisters.nextPins) ∨
    (s.pins.rst ≠ 1 ∧ s.stuck? = none ∧ t = s.edgeEffect.nextPins) := by
  rcases step_cases h with ⟨c, rest, -, hx⟩ | ⟨-, hr, rfl⟩ | ⟨-, hr, i, u, hi, hx, rfl⟩
  · obtain ⟨v, rfl, -⟩ := exec_call_eq_next hx
    exact .inl ⟨rest, v, rfl⟩
  · exact .inr (.inl ⟨hr, rfl⟩)
  · rw [exec_selected hi] at hx
    obtain ⟨hs, rfl⟩ := unlessStuck_eq_next.mp hx
    exact .inr (.inr ⟨hr, hs, rfl⟩)

/-- The ways an edge without reset goes, with what each needs of mode, `sp` and the pins. -/
theorem edgeEffect_cases {s : State} (h : s.stuck? = none) :
    (s.mode = modeIdle ∧ s.pins.cmdValid = 1 ∧ s.edgeEffect = s.acceptCommand s.pins.cmd) ∨
    (s.edgeEffect = s) ∨
    (s.mode = modeErr ∧ s.pins.outReady = 1 ∧ s.edgeEffect = s.returnFromError) ∨
    (s.mode = modeRun ∧ s.sp = 1 ∧ s.pins.outReady = 1 ∧ s.edgeEffect = s.emitStuffed) ∨
    (s.mode = modeRun ∧ s.sp = 0 ∧ s.pins.outReady = 1 ∧
      s.edgeEffect = s.emitCopied s.sourceBit) := by
  have hm3 := (stuck_eq_none_iff.mp h).1
  unfold State.edgeEffect
  rcases mode_cases s.mode with hm | hm | hm | hm
  · rcases bit_cases s.pins.cmdValid with hv | hv <;> simp [hm, hv]
  · rcases bit_cases s.pins.outReady with hr | hr
    · simp [hm, hr]
    · rcases bit_cases s.sp with hs | hs <;> simp [hm, hr, hs]
  · rcases bit_cases s.pins.outReady with hr | hr <;> simp [hm, hr]
  · exact absurd hm hm3

/-! ### The registers after a copied-bit beat, one rule per register (R161) -/

section EmitCopied

variable (s : State) (v : Bit)

@[simp] theorem emitCopied_mode : (s.emitCopied v).mode = (advance s.ph s.ix s.dDlc).2.2 := by
  simp [State.emitCopied]
@[simp] theorem emitCopied_ph : (s.emitCopied v).ph = (advance s.ph s.ix s.dDlc).1 := by
  simp [State.emitCopied]
@[simp] theorem emitCopied_ix : (s.emitCopied v).ix = (advance s.ph s.ix s.dDlc).2.1 := by
  simp [State.emitCopied]
@[simp] theorem emitCopied_ecode : (s.emitCopied v).ecode = s.ecode := by simp [State.emitCopied]
@[simp] theorem emitCopied_dDlc : (s.emitCopied v).dDlc = s.dDlc := by simp [State.emitCopied]
@[simp] theorem emitCopied_latched : (s.emitCopied v).latched = s.latched := by
  simp [State.emitCopied, State.latched]
@[simp] theorem emitCopied_ltag : (s.emitCopied v).ltag = s.ph := by simp [State.emitCopied]
@[simp] theorem emitCopied_opos : (s.emitCopied v).opos = s.opos + 1 := by simp [State.emitCopied]
@[simp] theorem emitCopied_sent : (s.emitCopied v).sent = s.sent ++ [s.copiedBeat v] := by
  simp [State.emitCopied]

end EmitCopied

/-- A beat of the tail writes none of the CRC register and the detector (R161). -/
theorem emitCopied_registers_of_tail {s : State} (v : Bit) (hp : isPreCrc s.ph = false) :
    (s.emitCopied v).crc = s.crc ∧ (s.emitCopied v).run = s.run ∧ (s.emitCopied v).prev = s.prev ∧
    (s.emitCopied v).sp = s.sp := by
  simp [State.emitCopied, State.feed, hp]

/-! ### The beat on the outputs (R29, R38) -/

theorem offered_of_idle {s : State} (h : s.mode = modeIdle) : s.offered = none := by
  simp [State.offered, State.outValid, h]

theorem offered_of_err {s : State} (h : s.mode = modeErr) : s.offered = some s.errorBeat := by
  simp [State.offered, State.outValid, State.outErr, State.outLast, State.errorBeat, h]

theorem offered_of_pending {s : State} (h : s.mode = modeRun) (hs : s.sp = 1) :
    s.offered = some s.stuffedBeat := by
  simp [State.offered, State.outValid, State.outErr, State.outStuff, State.outLast,
    State.stuffedBeat, h, hs]

theorem offered_of_run {s : State} (h : s.mode = modeRun) (hs : s.sp = 0) :
    s.offered = some (s.copiedBeat s.sourceBit) := by
  simp [State.offered, State.outValid, State.outErr, State.outStuff, State.outLast,
    State.copiedBeat, isLastBit, h, hs] <;> rfl

/-- The pins and their plan are not read by the outputs. -/
@[simp] theorem offered_nextPins (s : State) : s.nextPins.offered = s.offered := by
  unfold State.nextPins
  split <;> rfl

/-- What an edge offers is what it transfers when the consumer is ready; otherwise nothing changes
(R29, R179). -/
theorem edgeEffect_transfers_offered {s : State} (h : s.stuck? = none) (hm : s.mode ≠ modeIdle) :
    ∃ b, s.offered = some b ∧
      (s.pins.outReady = 1 → s.edgeEffect.sent = s.sent ++ [b]) ∧
      (s.pins.outReady ≠ 1 → s.edgeEffect = s) := by
  have stalls (hr : s.pins.outReady ≠ 1) : s.edgeEffect = s := by
    rw [State.edgeEffect, if_neg hm, if_pos hr]
  have takes (hr : s.pins.outReady = 1) : s.edgeEffect =
      if s.mode = modeErr then s.returnFromError
      else if s.sp = 1 then s.emitStuffed
      else s.emitCopied s.sourceBit := by
    rw [State.edgeEffect, if_neg hm, if_neg (not_not.mpr hr)]
  rcases mode_cases s.mode with hi | hrun | herr | h3
  · exact absurd hi hm
  · rcases bit_cases s.sp with hs | hs
    · exact ⟨_, offered_of_run hrun hs, fun hr => by simp [takes hr, hrun, hs], stalls⟩
    · exact ⟨_, offered_of_pending hrun hs, fun hr => by simp [takes hr, hrun, hs], stalls⟩
  · exact ⟨_, offered_of_err herr, fun hr => by simp [takes hr, herr], stalls⟩
  · exact absurd h3 (stuck_eq_none_iff.mp h).1

/-- In IDLE no beat is transferred (R29). -/
theorem edgeEffect_sent_of_idle {s : State} (hm : s.mode = modeIdle) : s.edgeEffect.sent = s.sent := by
  rw [State.edgeEffect, if_pos hm]
  split
  · rcases acceptCommand_cases s s.pins.cmd with ⟨e, -, he⟩ | ⟨-, he⟩ <;> simp [he]
  · rfl

/-- Settles O46: an edge transfers the offered beat when the consumer is ready and keeps the state, hence
the offer, when it is not. -/
theorem offeredBeatIsTheTransferredBeat : Obligations.OfferedBeatIsTheTransferredBeat := by
  intro s hc hr hs
  have hstep := step_eq_edgeEffect hc hr hs
  refine ⟨fun hm => ⟨offered_of_idle hm, _, hstep, by simp [edgeEffect_sent_of_idle hm]⟩, fun hm => ?_⟩
  obtain ⟨b, hb, taken, stalled⟩ := edgeEffect_transfers_offered hs hm
  refine ⟨b, hb, fun h => ⟨_, hstep, by simp [taken h]⟩, fun h => ⟨_, hstep, ?_⟩⟩
  simp [stalled h, hb]

/-! ### Who writes the registers (R31, R32, R34, R37) -/

/-- A copied-bit beat in RUN keeps the mode, but at the last end-of-frame bit (R175). -/
theorem emitCopied_keeps_mode {s : State} (v : Bit) (hm : s.mode = modeRun)
    (hix : s.ix.toNat < phLen s.ph s.dDlc) :
    (s.emitCopied v).mode = s.mode ∨ (s.ph = 11 ∧ s.ix.toNat = 6) := by
  rw [emitCopied_mode, hm]
  rcases advance_cases s.ph s.ix s.dDlc with ⟨-, e⟩ | ⟨hend, hp, -⟩ | ⟨-, -, -, e⟩ | ⟨-, -, -, e⟩
  · exact .inl (by rw [e])
  · rw [hp] at hix hend
    have hlt : s.ix.toNat < 7 := hix
    have hge : 7 ≤ s.ix.toNat + 1 := hend
    exact .inr ⟨hp, by omega⟩
  · exact .inl (by rw [e])
  · exact .inl (by rw [e])

/-- Settles O60: the clause of each register, in each of the ways an edge without reset goes. -/
theorem registersAreWrittenOnlyByTheirWriters : Obligations.RegistersAreWrittenOnlyByTheirWriters := by
  intro s t hstep hrst
  rcases step_eq_next hstep with ⟨rest, v, rfl⟩ | ⟨hr, -⟩ | ⟨-, hstuck, rfl⟩
  · simp
  · exact absurd hr hrst
  simp only [State.nextPins_dId, State.nextPins_dRtr, State.nextPins_dDlc, State.nextPins_dData,
    State.nextPins_crc, State.nextPins_ecode, State.nextPins_mode]
  rcases edgeEffect_cases hstuck with
    ⟨hm, hv, e⟩ | e | ⟨hm, hr, e⟩ | ⟨hm, hs, hr, e⟩ | ⟨hm, hs, hr, e⟩ <;> rw [e]
  · rcases acceptCommand_cases s s.pins.cmd with ⟨err, -, ha⟩ | ⟨hval, -⟩
    · simp [ha, hm, hv]
    · exact ⟨fun _ => ⟨hm, hv, hval⟩, fun _ => .inl ⟨hm, hv, hval⟩, fun _ => .inl ⟨hm, hv⟩,
        fun _ => .inl ⟨hm, hv⟩⟩
  · simp
  · exact ⟨by simp, by simp, fun _ => .inr ⟨hm, hr⟩, fun _ => .inr (.inl ⟨hm, hr⟩)⟩
  · simp
  · obtain ⟨hid, hrtr, hdlc, hdata, hecode, -⟩ := emitCopied_frame s s.sourceBit
    have hix := ix_lt_of_not_stuck hstuck hm hs
    refine ⟨fun h => absurd ?_ h, fun h => .inr ⟨hm, hs, ?_, hr⟩, fun h => absurd hecode h, fun h => ?_⟩
    · rw [hid, hrtr, hdlc, hdata]
    · by_contra hp
      have htail : isPreCrc s.ph = false := by simpa [isPreCrc, BitVec.le_def] using hp
      exact h (emitCopied_registers_of_tail _ htail).1
    · obtain ⟨hp, hi⟩ := (emitCopied_keeps_mode _ hm hix).resolve_left h
      exact .inr (.inr ⟨hm, hs, hp, hi, hr⟩)

/-! ### Stuffing the first bits of a sequence (R121, R125) -/

theorem runCount_le {run : Nat} (h : run ≤ 4) (prev b : Bit) : runCount run prev b ≤ 5 := by
  unfold runCount; split <;> omega

theorem getElem?_of_isPrefix {α : Type} {l m : List α} (h : l <+: m) {i : Nat} {a : α}
    (hi : l[i]? = some a) : m[i]? = some a := by
  obtain ⟨hlt, rfl⟩ := List.getElem?_eq_some_iff.mp hi
  exact List.prefix_iff_getElem?.mp h i hlt

/-- One STUFF.STEP only adds to the output, and inserts nothing among what is there (R121). -/
theorem stuffStep_extends (st : StuffState) (b : Bit) :
    st.out <+: (stuffStep st b).out ∧
    ∀ p, p < st.out.length → (p ∈ (stuffStep st b).ins ↔ p ∈ st.ins) := by
  rcases stuffStep_cases st b with ⟨-, e⟩ | ⟨-, e⟩ <;> rw [e]
  · refine ⟨⟨[b] ++ [~~~b], by simp⟩, fun p hp => ?_⟩
    have : p ≠ st.out.length + 1 := by omega
    simp [this]
  · exact ⟨⟨[b], rfl⟩, fun p _ => Iff.rfl⟩

/-- The same for any number of steps. -/
theorem foldl_stuffStep_extends (v : BitSeq) (st : StuffState) :
    st.out <+: (v.foldl stuffStep st).out ∧
    ∀ p, p < st.out.length → (p ∈ (v.foldl stuffStep st).ins ↔ p ∈ st.ins) := by
  induction v generalizing st with
  | nil => exact ⟨⟨[], by simp⟩, fun _ _ => Iff.rfl⟩
  | cons b v ih =>
    obtain ⟨hout, hins⟩ := stuffStep_extends st b
    obtain ⟨iout, iins⟩ := ih (stuffStep st b)
    exact ⟨hout.trans iout, fun p hp => (iins p (hp.trans_le hout.length_le)).trans (hins p hp)⟩

/-- Stuffing more bits only adds to the output (R125). -/
theorem stuffRun_append_extends (u v : BitSeq) :
    (stuffRun u).out <+: (stuffRun (u ++ v)).out ∧
    ∀ p, p < (stuffRun u).out.length → (p ∈ (stuffRun (u ++ v)).ins ↔ p ∈ (stuffRun u).ins) := by
  rw [stuffRun, stuffRun, List.foldl_append]
  exact foldl_stuffStep_extends v _

theorem stuffRun_take_out_isPrefix (u : BitSeq) (k : Nat) :
    (stuffRun (u.take k)).out <+: (stuffRun u).out := by
  simpa using (stuffRun_append_extends (u.take k) (u.drop k)).1

theorem mem_stuffRun_ins_iff_take {u : BitSeq} {k p : Nat} (h : p < (stuffRun (u.take k)).out.length) :
    p ∈ (stuffRun u).ins ↔ p ∈ (stuffRun (u.take k)).ins := by
  simpa using (stuffRun_append_extends (u.take k) (u.drop k)).2 p h

theorem take_succ_of_getElem? {α : Type} {u : List α} {k : Nat} {b : α} (h : u[k]? = some b) :
    u.take (k + 1) = u.take k ++ [b] := by
  rw [List.take_add_one, h]; rfl

/-- The detector after one more bit of `u`. -/
theorem stuffRun_take_succ {u : BitSeq} {k : Nat} {b : Bit} (h : u[k]? = some b) :
    stuffRun (u.take (k + 1)) = stuffStep (stuffRun (u.take k)) b := by
  rw [take_succ_of_getElem? h, stuffRun_snoc]

/-- The bounds of the detector between two bits: the counter stays below five, inserted positions lie in
the output, and every insertion has five copied bits of its own before it (R121, R141). -/
theorem stuffRun_bounds (u : BitSeq) :
    (stuffRun u).run ≤ 4 ∧ (∀ p ∈ (stuffRun u).ins, p < (stuffRun u).out.length) ∧
    (stuffRun u).out.length = u.length + (stuffRun u).ins.length ∧
    5 * (stuffRun u).ins.length + (stuffRun u).run ≤ u.length := by
  induction u using List.reverseRecOn with
  | nil => simp [stuffInit]
  | append_singleton u b ih =>
    obtain ⟨hrun, hins, hlen, hbudget⟩ := ih
    rw [stuffRun_snoc]
    refine ⟨stuffStep_run_le hrun b, ?_⟩
    have hcount : runCount (stuffRun u).run (stuffRun u).prev b ≤ (stuffRun u).run + 1 := by
      unfold runCount; split <;> omega
    rcases stuffStep_cases (stuffRun u) b with ⟨h5, e⟩ | ⟨-, e⟩ <;> rw [e]
    · simp only [List.length_append, List.length_singleton, List.mem_append, List.mem_singleton]
      refine ⟨fun p hp => ?_, by omega, by omega⟩
      rcases hp with hp | rfl
      · have := hins p hp; omega
      · omega
    · simp only [List.length_append, List.length_singleton]
      exact ⟨fun p hp => (hins p hp).trans (Nat.lt_succ_self _), by omega, by omega⟩

theorem stuffRun_run_le (u : BitSeq) : (stuffRun u).run ≤ 4 := (stuffRun_bounds u).1

theorem stuffRun_ins_lt {u : BitSeq} {p : Nat} (h : p ∈ (stuffRun u).ins) :
    p < (stuffRun u).out.length := by
  obtain ⟨-, hins, -⟩ := stuffRun_bounds u
  exact hins p h

theorem spos_eq (u : BitSeq) (k : Nat) : spos u k = (stuffRun (u.take k)).out.length := rfl

@[simp] theorem spos_zero (u : BitSeq) : spos u 0 = 0 := by simp [spos_eq, stuffInit]

theorem spos_length (u : BitSeq) : spos u u.length = (stuffRun u).out.length := by simp [spos_eq]

/-- Stuffed positions keep the order of the bits (R141). -/
theorem spos_mono (u : BitSeq) {j k : Nat} (h : j ≤ k) : spos u j ≤ spos u k := by
  have := (stuffRun_take_out_isPrefix (u.take k) j).length_le
  rwa [List.take_take, Nat.min_eq_left h] at this

/-- Where bit `k` of `u` goes: to position `spos u k`, as a copied bit (R121, R124). -/
theorem stuff_at_copied {u : BitSeq} {k : Nat} {b : Bit} (h : u[k]? = some b) :
    (stuff u).stuffedBits[spos u k]? = some b ∧ spos u k ∉ (stuff u).insertedPositions ∧
    spos u k < spos u (k + 1) := by
  have hnext := stuffRun_take_succ h
  have hlt : spos u k < spos u (k + 1) := by
    have := stuffStep_out_length (stuffRun (u.take k)) b
    rw [spos_eq, spos_eq, hnext]; omega
  have hfresh : spos u k ∉ (stuffRun (u.take k)).ins := fun hm =>
    Nat.lt_irrefl _ (stuffRun_ins_lt hm)
  have hstep : (stuffRun (u.take (k + 1))).out[spos u k]? = some b ∧
      spos u k ∉ (stuffRun (u.take (k + 1))).ins := by
    rw [spos_eq] at hfresh ⊢
    rw [hnext]
    rcases stuffStep_cases (stuffRun (u.take k)) b with ⟨-, e⟩ | ⟨-, e⟩ <;> simp [e, hfresh]
  obtain ⟨hbit, hins⟩ := hstep
  exact ⟨getElem?_of_isPrefix (stuffRun_take_out_isPrefix u (k + 1)) hbit,
    fun hm => hins ((mem_stuffRun_ins_iff_take hlt).mp hm), hlt⟩

/-- An insertion that bit `k` of `u` makes due: the complement follows the copied bit (R121, R124). -/
theorem stuff_at_inserted {u : BitSeq} {k : Nat} {b : Bit} (h : u[k]? = some b)
    (h5 : runCount (stuffRun (u.take k)).run (stuffRun (u.take k)).prev b = 5) :
    (stuff u).stuffedBits[spos u k + 1]? = some (~~~b) ∧
    spos u k + 1 ∈ (stuff u).insertedPositions ∧ spos u (k + 1) = spos u k + 2 := by
  have hnext := stuffRun_take_succ h
  rcases stuffStep_cases (stuffRun (u.take k)) b with ⟨-, e⟩ | ⟨hne, -⟩
  swap
  · exact absurd h5 hne
  rw [e] at hnext
  have hlen : spos u (k + 1) = spos u k + 2 := by simp [spos_eq, hnext]
  refine ⟨getElem?_of_isPrefix (stuffRun_take_out_isPrefix u (k + 1)) ?_, ?_, hlen⟩
  · simp [hnext, spos_eq]
  · refine (mem_stuffRun_ins_iff_take (k := k + 1) ?_).mpr ?_
    · rw [← spos_eq, hlen]; omega
    · simp [hnext, spos_eq]

/-! ### The pre-CRC sequence of the latched descriptor (R137) -/

theorem msbFirst_getElem? {w i : Nat} (h : i < w) (value : Nat) :
    (msbFirst w value)[i]? = some (BitVec.ofNat 1 (value >>> (w - 1 - i))) := by
  induction w generalizing i with
  | zero => omega
  | succ w ih =>
    cases i with
    | zero => simp [msbFirst]
    | succ i =>
      have hi : i < w := by omega
      have hsub : w + 1 - 1 - (i + 1) = w - 1 - i := by omega
      simp only [msbFirst, List.getElem?_cons_succ, ih hi, hsub]

/-- A bit of a concatenation of bytes' bits is found by its byte and its place in the byte. -/
theorem concatBits_range_map {f : Nat → BitSeq} (hf : ∀ k, (f k).length = 8) (n : Nat) :
    (concatBits ((List.range n).map f)).length = 8 * n ∧
    ∀ i, i < 8 * n → (concatBits ((List.range n).map f))[i]? = (f (i / 8))[i % 8]? := by
  induction n with
  | zero => simp
  | succ n ih =>
    obtain ⟨hlen, hget⟩ := ih
    have hsucc : concatBits ((List.range (n + 1)).map f) =
        concatBits ((List.range n).map f) ++ f n := by
      simp [concatBits_eq_flatten, List.range_succ]
    rw [hsucc]
    refine ⟨by simp [hlen, hf]; omega, fun i hi => ?_⟩
    by_cases hin : i < 8 * n
    · rw [List.getElem?_append_left (by omega), hget i hin]
    · have hdiv : i / 8 = n := by omega
      have hmod : i - 8 * n = i % 8 := by omega
      rw [List.getElem?_append_right (by omega), hlen, hdiv, hmod]

/-- `U` with its fields side by side (R137). -/
theorem preCrc_eq (d : Descriptor) :
    preCrc d = 0 :: (msbFirst 11 d.identifier ++ BitVec.ofBool d.remoteRequest :: 0 :: 0 ::
      (msbFirst 4 d.dlc ++ concatBits ((usedBytes d).map (msbFirst 8)))) := by
  simp [preCrc]

theorem preCrc_length (d : Descriptor) : (preCrc d).length = 19 + 8 * d.dlc := by
  have hdata : (concatBits ((usedBytes d).map (msbFirst 8))).length = 8 * d.dlc := by
    rw [usedBytes, List.map_map]
    exact (concatBits_range_map (fun k => msbFirst_length 8 _) d.dlc).1
  simp only [preCrc_eq, List.length_cons, List.length_append, msbFirst_length, hdata]
  omega

/-- The bits of `U`, field by field at the offsets of R58. -/
theorem preCrc_getElem? (d : Descriptor) :
    (preCrc d)[0]? = some 0 ∧
    (∀ i, i < 11 → (preCrc d)[1 + i]? = some (BitVec.ofNat 1 (d.identifier >>> (10 - i)))) ∧
    (preCrc d)[12]? = some (BitVec.ofBool d.remoteRequest) ∧
    (preCrc d)[13]? = some 0 ∧
    (preCrc d)[14]? = some 0 ∧
    (∀ i, i < 4 → (preCrc d)[15 + i]? = some (BitVec.ofNat 1 (d.dlc >>> (3 - i)))) ∧
    ∀ i, (preCrc d)[19 + i]? = (concatBits ((usedBytes d).map (msbFirst 8)))[i]? := by
  rw [preCrc_eq]
  refine ⟨rfl, fun i hi => ?_, ?_, ?_, ?_, fun i hi => ?_, fun i => ?_⟩
  · rw [Nat.add_comm, List.getElem?_cons_succ, List.getElem?_append_left (by simpa using hi),
      msbFirst_getElem? hi]
  · simp
  · simp [List.getElem?_append_right]
  · simp [List.getElem?_append_right]
  · have hoff : 15 + i = 11 + (i + 3) + 1 := by omega
    rw [hoff, List.getElem?_cons_succ, List.getElem?_append_right (by simp)]
    simp only [msbFirst_length, Nat.add_sub_cancel_left, List.getElem?_cons_succ]
    rw [List.getElem?_append_left (by simpa using hi), msbFirst_getElem? hi]
  · have hoff : 19 + i = 11 + (4 + i + 3) + 1 := by omega
    rw [hoff, List.getElem?_cons_succ, List.getElem?_append_right (by simp)]
    simp only [msbFirst_length, Nat.add_sub_cancel_left, List.getElem?_cons_succ]
    rw [List.getElem?_append_right (by simp)]
    simp

/-- The used bytes of the latch are its first `d_dlc` lanes (R54, R136). -/
theorem usedBytes_latched {s : State} (h : s.dDlc ≤ 8) :
    usedBytes s.latched = (List.range s.dDlc.toNat).map fun k => (lane s.dData k).toNat := by
  refine List.map_congr_left fun k hk => ?_
  have h8 : s.dDlc.toNat ≤ 8 := h
  have hk : k < 8 := (List.mem_range.mp hk).trans_le h8
  simp [dataByte, State.latched, hk]

/-- Bit `i` of the latch's data field is `d_data[63 - i]` (R54, R168). -/
theorem dataField_getElem? {s : State} (h : s.dDlc ≤ 8) {i : Nat} (hi : i < 8 * s.dDlc.toNat) :
    (concatBits ((usedBytes s.latched).map (msbFirst 8)))[i]? = some (s.dData.extractLsb' (63 - i) 1) := by
  have h8 : s.dDlc.toNat ≤ 8 := h
  have hget := (concatBits_range_map (f := msbFirst 8 ∘ fun k => (lane s.dData k).toNat)
    (fun _ => msbFirst_length 8 _) s.dDlc.toNat).2 i hi
  rw [usedBytes_latched h, List.map_map, hget]
  have hlane : (lane s.dData (i / 8)).extractLsb' (8 - 1 - i % 8) 1 = s.dData.extractLsb' (63 - i) 1 := by
    ext j hj
    obtain rfl : j = 0 := by omega
    have hpos : 56 - 8 * (i / 8) + (8 - 1 - i % 8) = 63 - i := by omega
    have hlt : 8 - 1 - i % 8 < 8 := by omega
    simp [lane, hpos, hlt]
  exact (msbFirst_getElem? (Nat.mod_lt i (by decide)) _).trans (congrArg some hlane)

theorem pre_cases {ph : BitVec 4} (h : isPreCrc ph = true) :
    ph = 0 ∨ ph = 1 ∨ ph = 2 ∨ ph = 3 ∨ ph = 4 ∨ ph = 5 ∨ ph = 6 := by
  revert ph; decide

theorem ofBool_beq_one (b : Bit) : BitVec.ofBool (b == 1) = b := by revert b; decide

/-- The phase operation due in a pre-CRC phase emits the next bit of `U` (R162 to R168, R137). -/
theorem preCrc_getElem?_copied {s : State} (hd : s.dDlc ≤ 8) (hp : isPreCrc s.ph = true)
    (hix : s.ix.toNat < phLen s.ph s.dDlc) : (preCrc s.latched)[s.copied]? = some s.sourceBit := by
  have hcopied : s.copied = phaseStart s.ph s.dDlc + s.ix.toNat := if_pos hp
  obtain ⟨hsof, hid, hrtr, hide, hr0, hdlc, hdata⟩ := preCrc_getElem? s.latched
  rw [hcopied, State.sourceBit]
  rcases pre_cases hp with e | e | e | e | e | e | e <;> rw [e] at hix ⊢
  · rw [Nat.lt_one_iff.mp hix]; exact hsof
  · exact hid _ hix
  · rw [Nat.lt_one_iff.mp hix]; exact hrtr.trans (congrArg some (ofBool_beq_one s.dRtr))
  · rw [Nat.lt_one_iff.mp hix]; exact hide
  · rw [Nat.lt_one_iff.mp hix]; exact hr0
  · exact hdlc _ hix
  · exact (hdata _).trans (dataField_getElem? hd hix)

/-! ### The tail of the frame (R140, R169 to R173) -/

/-- The bits after the stuffed part of a frame (R140, `frameBits_eq`). -/
def tailBits (crc : BitVec 15) : BitSeq := msbFirst 15 crc.toNat ++ 1 :: 1 :: 1 :: List.replicate 7 1

theorem frameBits_eq (stuffed : BitSeq) (crc : BitVec 15) :
    frameBits stuffed crc = stuffed ++ tailBits crc := by
  simp [frameBits, tailBits, List.replicate]

@[simp] theorem tailBits_length (crc : BitVec 15) : (tailBits crc).length = 25 := by simp [tailBits]

theorem tail_cases {ph : BitVec 4} (h : isPreCrc ph = false) (hle : ph ≤ 11) :
    ph = 7 ∨ ph = 8 ∨ ph = 9 ∨ ph = 10 ∨ ph = 11 := by
  revert ph; decide

/-- The phase operation due after the stuffed part emits the next tail bit (R169 to R173). -/
theorem tailBits_getElem?_tailEmitted {s : State} (hp : isPreCrc s.ph = false) (hle : s.ph ≤ 11)
    (hix : s.ix.toNat < phLen s.ph s.dDlc) : (tailBits s.crc)[s.tailEmitted]? = some s.sourceBit := by
  have hright (j : Nat) : (tailBits s.crc)[15 + j]? =
      ((1 :: 1 :: 1 :: List.replicate 7 1 : BitSeq))[j]? := by
    rw [tailBits, List.getElem?_append_right (by simp), msbFirst_length, Nat.add_sub_cancel_left]
  rw [State.tailEmitted, State.sourceBit]
  rcases tail_cases hp hle with e | e | e | e | e <;> rw [e] at hix ⊢
  · have hlt : s.ix.toNat < 15 := hix
    exact (List.getElem?_append_left (by simpa using hlt)).trans (msbFirst_getElem? hlt _)
  · exact hright 0
  · exact hright 1
  · exact hright 2
  · have hlt : s.ix.toNat < 7 := hix
    have hoff : 18 + s.ix.toNat = 15 + (s.ix.toNat + 3) := by omega
    show (tailBits s.crc)[18 + s.ix.toNat]? = _
    rw [hoff, hright]
    exact List.getElem?_replicate_of_lt hlt

/-- `ph` and `ix` say how far the tail is: its last bit is the last one of end of frame (R38, R59). -/
theorem tailEmitted_lt {s : State} (hp : isPreCrc s.ph = false) (hle : s.ph ≤ 11)
    (hix : s.ix.toNat < phLen s.ph s.dDlc) :
    s.tailEmitted < 25 ∧ (s.tailEmitted = 24 ↔ s.ph = 11 ∧ s.ix = 6) := by
  have hix6 : s.ix = 6 ↔ s.ix.toNat = 6 := BitVec.toNat_inj.symm
  rw [State.tailEmitted, hix6]
  rcases tail_cases hp hle with e | e | e | e | e <;> rw [e] at hix ⊢ <;>
    simp [phLen] at hix ⊢ <;> omega

/-! ### The field at a position (R143, R181) -/

/-- In ranges that follow each other, the one around a position is the one found there (R181). -/
theorem fieldAt_eq_code {r : FrameResult} {x : SubRange} {p : Nat}
    (hr : r.subRanges.Pairwise fun a b => a.stop ≤ b.start) (hx : x ∈ r.subRanges)
    (hstart : x.start ≤ p) (hstop : p < x.stop) : r.fieldAt p = x.field.code := by
  have hfind : r.subRanges.find? (fun x => x.start ≤ p && p < x.stop) = some x := by
    generalize r.subRanges = l at hr hx
    induction hr with
    | nil => cases hx
    | @cons y l hy _ ih =>
      rcases List.mem_cons.mp hx with rfl | hmem
      · simp [hstart, hstop]
      · have hpast : ¬ p < y.stop := by have := hy x hmem; omega
        simpa [hpast] using ih hmem
  rw [FrameResult.fieldAt, hfind]

/-- The twelve sub-ranges follow each other (R143, R148). -/
theorem subRangesOf_pairwise {u : BitSeq} (hu : 19 ≤ u.length) :
    (subRangesOf u).Pairwise fun a b => a.stop ≤ b.start := by
  have h12 := spos_mono u (show 1 ≤ 12 by omega)
  have h13 := spos_mono u (show 12 ≤ 13 by omega)
  have h14 := spos_mono u (show 13 ≤ 14 by omega)
  have h15 := spos_mono u (show 14 ≤ 15 by omega)
  have h19 := spos_mono u (show 15 ≤ 19 by omega)
  have hn := spos_mono u hu
  simp only [subRangesOf, List.pairwise_cons, List.forall_mem_cons, List.not_mem_nil, false_implies,
    implies_true, List.Pairwise.nil, and_true]
  omega

theorem construct_subRanges_pairwise (d : Descriptor) :
    (construct d).subRanges.Pairwise fun a b => a.stop ≤ b.start :=
  subRangesOf_pairwise (by rw [preCrc_length]; omega)

/-- The sub-range that stands around `p` in the table of R143 gives the field of `p`. -/
theorem fieldAt_construct {d : Descriptor} {p start stop : Nat} (f : SubField) (i : Nat)
    (hx : (subRangesOf (preCrc d))[i]? = some ⟨f, start, stop⟩) (hstart : start ≤ p) (hstop : p < stop) :
    (construct d).fieldAt p = f.code :=
  fieldAt_eq_code (construct_subRanges_pairwise d) (List.mem_of_getElem? hx) hstart hstop

/-- A pre-CRC phase ends where the next one begins (R58, R175). -/
theorem phaseStart_add_phLen {ph : BitVec 4} (dlc : BitVec 4) (h : isPreCrc ph = true) :
    phaseStart ph dlc + phLen ph dlc = phaseStart (ph + 1) dlc := by
  rcases pre_cases h with rfl | rfl | rfl | rfl | rfl | rfl | rfl <;> rfl

/-- From the first bit of a pre-CRC phase to the first bit of the next one, in stuffed positions, the
field is the phase's (R58, R143). -/
theorem fieldAt_of_pre {d : Descriptor} {ph dlc : BitVec 4} {p : Nat} (hdlc : d.dlc = dlc.toNat)
    (hp : isPreCrc ph = true) (hstart : spos (preCrc d) (phaseStart ph dlc) ≤ p)
    (hstop : p < spos (preCrc d) (phaseStart ph dlc + phLen ph dlc)) :
    (construct d).fieldAt p = ph := by
  rw [phaseStart_add_phLen dlc hp] at hstop
  rcases pre_cases hp with rfl | rfl | rfl | rfl | rfl | rfl | rfl <;>
    simp only [phaseStart, BitVec.ofNat_eq_ofNat, BitVec.toNat_ofNat, BitVec.reduceAdd,
      Nat.reducePow, Nat.reduceMod] at hstart hstop
  · exact fieldAt_construct .sof 0 rfl (Nat.zero_le _) hstop
  · exact fieldAt_construct .id 1 rfl hstart hstop
  · exact fieldAt_construct .rtr 2 rfl hstart hstop
  · exact fieldAt_construct .ide 3 rfl hstart hstop
  · exact fieldAt_construct .r0 4 rfl hstart hstop
  · exact fieldAt_construct .dlc 5 rfl hstart hstop
  · rw [← hdlc, ← preCrc_length] at hstop
    exact fieldAt_construct .data 6 rfl hstart hstop

/-- The field at the position of the tail the sequencer is at is its phase (R59, R143). -/
theorem fieldAt_of_tail {s : State} (d : Descriptor) (hp : isPreCrc s.ph = false) (hle : s.ph ≤ 11)
    (hix : s.ix.toNat < phLen s.ph s.dDlc) :
    (construct d).fieldAt (spos (preCrc d) (preCrc d).length + s.tailEmitted) = s.ph := by
  rw [State.tailEmitted]
  rcases tail_cases hp hle with e | e | e | e | e <;> rw [e] at hix ⊢
  · have hlt : s.ix.toNat < 15 := hix
    exact fieldAt_construct .crc 7 rfl (Nat.le_add_right _ _) (Nat.add_lt_add_left hlt _)
  · exact fieldAt_construct .crcDel 8 rfl le_rfl (Nat.lt_succ_self _)
  · exact fieldAt_construct .ack 9 rfl le_rfl (Nat.lt_succ_self _)
  · exact fieldAt_construct .ackDel 10 rfl le_rfl (Nat.lt_succ_self _)
  · have hlt : 18 + s.ix.toNat < 25 := by
      have : s.ix.toNat < 7 := hix
      omega
    exact fieldAt_construct .eof 11 rfl (Nat.add_le_add_left (Nat.le_add_right _ _) _)
      (Nat.add_lt_add_left hlt _)

/-! ### The beats of the response (R181) -/

theorem construct_bits (d : Descriptor) :
    (construct d).bits = (stuff (preCrc d)).stuffedBits ++ tailBits (crc15 (preCrc d)) :=
  frameBits_eq _ _

theorem stuff_length (u : BitSeq) : (stuff u).stuffedBits.length = spos u u.length :=
  (spos_length u).symm

theorem construct_bits_length (d : Descriptor) :
    (construct d).bits.length = spos (preCrc d) (preCrc d).length + 25 := by
  rw [construct_bits, List.length_append, stuff_length, tailBits_length]

/-- `MAX_PRE_STUFFED` (R9, R82): at most sixteen bits are inserted. -/
theorem spos_preCrc_le {d : Descriptor} (hd : d.dlc ≤ 8) (k : Nat) : spos (preCrc d) k ≤ 99 := by
  obtain ⟨-, -, hlen, hbudget⟩ := stuffRun_bounds ((preCrc d).take k)
  have hU : ((preCrc d).take k).length ≤ 19 + 8 * d.dlc := by
    rw [← preCrc_length]; simp
  rw [spos_eq]
  omega

theorem response_getElem? {r : FrameResult} {p : Nat} {b : Bit} (h : r.bits[p]? = some b) :
    r.response[p]? = some ⟨0, 0, b, if p ∈ r.insertedPositions then 1 else 0, r.fieldAt p,
      if p + 1 = r.bits.length then 1 else 0⟩ := by
  obtain ⟨hlt, rfl⟩ := List.getElem?_eq_some_iff.mp h
  simp [FrameResult.response, FrameResult.beatAt, hlt]

/-- The response within the stuffed part: no beat there is the last. -/
theorem response_getElem?_stuffed {d : Descriptor} {p : Nat} {b : Bit}
    (h : (stuff (preCrc d)).stuffedBits[p]? = some b) :
    (construct d).response[p]? = some ⟨0, 0, b,
      if p ∈ (stuff (preCrc d)).insertedPositions then 1 else 0, (construct d).fieldAt p, 0⟩ := by
  have hlt := (List.getElem?_eq_some_iff.mp h).1
  have hbit : (construct d).bits[p]? = some b := by
    rw [construct_bits, List.getElem?_append_left hlt, h]
  have hlast : ¬ p + 1 = (construct d).bits.length := by
    rw [construct_bits_length, ← stuff_length]; omega
  rw [response_getElem? hbit, if_neg hlast]
  rfl

theorem isLastBit_eq_ite (ph : BitVec 4) (ix : BitVec 6) :
    isLastBit ph ix = if ph = 11 ∧ ix = 6 then 1 else 0 := by
  have h : (ph == 11 && ix == 6) = true ↔ ph = 11 ∧ ix = 6 := by
    rw [Bool.and_eq_true, beq_iff_eq, beq_iff_eq]
  rw [isLastBit]
  by_cases hl : ph = 11 ∧ ix = 6
  · rw [if_pos hl, h.mpr hl]; rfl
  · rw [if_neg hl, Bool.eq_false_of_not_eq_true (h.not.mpr hl)]; rfl

theorem isLastBit_of_pre {ph : BitVec 4} (ix : BitVec 6) (h : isPreCrc ph = true) :
    isLastBit ph ix = 0 := by
  rcases pre_cases h with rfl | rfl | rfl | rfl | rfl | rfl | rfl <;> rfl

section PreCrcBeat

variable {s : State} (hp : isPreCrc s.ph = true) (hix : s.ix.toNat < phLen s.ph s.dDlc)
  (hd : s.dDlc ≤ 8)
include hp hix

/-- The stuffed positions of the bit that is due lie in the field of its phase. -/
theorem fieldAt_of_due_bit {p : Nat} (hstart : spos (preCrc s.latched) s.copied ≤ p)
    (hstop : p < spos (preCrc s.latched) (s.copied + 1)) :
    (construct s.latched).fieldAt p = s.ph := by
  have hcopied : s.copied = phaseStart s.ph s.dDlc + s.ix.toNat := if_pos hp
  rw [hcopied] at hstart hstop
  exact fieldAt_of_pre rfl hp ((spos_mono _ (by omega)).trans hstart)
    (hstop.trans_le (spos_mono _ (by omega)))

include hd

/-- The copied-bit beat of a pre-CRC phase is the one the response has there (R161, R181). -/
theorem response_at_copied : (construct s.latched).response[spos (preCrc s.latched) s.copied]? =
    some (s.copiedBeat s.sourceBit) := by
  obtain ⟨hbit, hins, hlt⟩ := stuff_at_copied (preCrc_getElem?_copied hd hp hix)
  rw [response_getElem?_stuffed hbit, if_neg hins, fieldAt_of_due_bit hp hix le_rfl hlt,
    State.copiedBeat, isLastBit_of_pre s.ix hp]

/-- After the fifth equal bit the response has its complement, tagged with the same phase (R174, R181). -/
theorem response_at_inserted
    (h5 : runCount (stuffRun ((preCrc s.latched).take s.copied)).run
      (stuffRun ((preCrc s.latched).take s.copied)).prev s.sourceBit = 5) :
    (construct s.latched).response[spos (preCrc s.latched) s.copied + 1]? =
      some ⟨0, 0, ~~~s.sourceBit, 1, s.ph, 0⟩ := by
  obtain ⟨hbit, hins, hnext⟩ := stuff_at_inserted (preCrc_getElem?_copied hd hp hix) h5
  rw [response_getElem?_stuffed hbit, if_pos hins,
    fieldAt_of_due_bit hp hix (Nat.le_succ _) (by omega)]

end PreCrcBeat

/-- The copied-bit beat of a tail phase is the one the response has there (R161, R181). -/
theorem response_at_tail {s : State} (hp : isPreCrc s.ph = false) (hle : s.ph ≤ 11)
    (hix : s.ix.toNat < phLen s.ph s.dDlc) (hcrc : s.crc = crc15 (preCrc s.latched)) :
    (construct s.latched).response[spos (preCrc s.latched) (preCrc s.latched).length + s.tailEmitted]? =
      some (s.copiedBeat s.sourceBit) := by
  obtain ⟨hlt, hlast⟩ := tailEmitted_lt hp hle hix
  have hbit : (construct s.latched).bits[spos (preCrc s.latched) (preCrc s.latched).length
      + s.tailEmitted]? = some s.sourceBit := by
    rw [construct_bits, ← hcrc, List.getElem?_append_right (by rw [stuff_length]; omega), stuff_length,
      Nat.add_sub_cancel_left, tailBits_getElem?_tailEmitted hp hle hix]
  have hins : spos (preCrc s.latched) (preCrc s.latched).length + s.tailEmitted ∉
      (construct s.latched).insertedPositions := fun hm => by
    have := stuffRun_ins_lt hm
    rw [← spos_length] at this
    omega
  have hbeat : (if spos (preCrc s.latched) (preCrc s.latched).length + s.tailEmitted + 1 =
      (construct s.latched).bits.length then (1 : Bit) else 0) = isLastBit s.ph s.ix := by
    have h24 : spos (preCrc s.latched) (preCrc s.latched).length + s.tailEmitted + 1 =
        (construct s.latched).bits.length ↔ s.ph = 11 ∧ s.ix = 6 := by
      rw [construct_bits_length, ← hlast]; omega
    rw [isLastBit_eq_ite]
    exact if_congr h24 rfl rfl
  rw [response_getElem? hbit, if_neg hins, hbeat, fieldAt_of_tail _ hp hle hix]
  rfl

/-! ### The position after a beat (R175) -/

theorem phLen_le {dlc : BitVec 4} (hd : dlc ≤ 8) (ph : BitVec 4) : phLen ph dlc ≤ 64 := by
  have hd' : dlc.toNat ≤ 8 := hd
  unfold phLen
  split <;> omega

/-- Only the data field can be empty, and then it is skipped (R168, R175). -/
theorem phLen_succ_pos {ph dlc : BitVec 4} (hp : isPreCrc ph = true) (h : ¬ (ph = 5 ∧ dlc = 0)) :
    0 < phLen (ph + 1) dlc := by
  rcases pre_cases hp with rfl | rfl | rfl | rfl | rfl | rfl | rfl
  case inr.inr.inr.inr.inr.inl =>
    have hne : dlc.toNat ≠ 0 := fun h0 => h ⟨rfl, BitVec.eq_of_toNat_eq h0⟩
    show 0 < 8 * dlc.toNat
    omega
  all_goals exact Nat.zero_lt_succ _

theorem tailEmitted_of_pre {s : State} (h : isPreCrc s.ph = true) : s.tailEmitted = 0 := by
  rw [State.tailEmitted]
  rcases pre_cases h with e | e | e | e | e | e | e <;> rw [e] <;> rfl

theorem copied_of_tail {s : State} (h : isPreCrc s.ph = false) : s.copied = 19 + 8 * s.dDlc.toNat :=
  if_neg (by simp [h])

/-- At the first bit of a phase exactly the phases before it are copied (R58). -/
theorem copied_of_ix_zero {s : State} (hle : s.ph ≤ 11) (h : s.ix = 0) :
    s.copied = phaseStart s.ph s.dDlc := by
  cases hp : isPreCrc s.ph
  · rw [copied_of_tail hp]
    rcases tail_cases hp hle with e | e | e | e | e <;> rw [e] <;> rfl
  · rw [State.copied, if_pos hp, h]
    rfl

theorem ix_succ_toNat {s : State} (hd : s.dDlc ≤ 8) (h : s.ix.toNat + 1 < phLen s.ph s.dDlc) :
    (s.ix + 1).toNat = s.ix.toNat + 1 := by
  have := phLen_le hd s.ph
  rw [BitVec.toNat_add]
  exact Nat.mod_eq_of_lt (by simp; omega)

section Position

variable {s : State} (v : Bit)

/-- After a beat of a pre-CRC phase the sequencer is at a bit again, with one more bit of `U` copied and
none of the tail emitted. -/
theorem emitCopied_position_of_pre (hd : s.dDlc ≤ 8) (hp : isPreCrc s.ph = true)
    (hix : s.ix.toNat < phLen s.ph s.dDlc) :
    (s.emitCopied v).mode = modeRun ∧ (s.emitCopied v).ph ≤ 11 ∧
    (s.emitCopied v).ix.toNat < phLen (s.emitCopied v).ph s.dDlc ∧
    (s.emitCopied v).copied = s.copied + 1 ∧ (s.emitCopied v).tailEmitted = 0 := by
  have hcopied : s.copied = phaseStart s.ph s.dDlc + s.ix.toNat := if_pos hp
  rcases advance_cases s.ph s.ix s.dDlc with
    ⟨hmore, e⟩ | ⟨-, h11, -⟩ | ⟨hend, h5, h0, e⟩ | ⟨hend, -, h5, e⟩
  · have hph : (s.emitCopied v).ph = s.ph := by simp [e]
    have hixe : (s.emitCopied v).ix.toNat = s.ix.toNat + 1 := by
      rw [emitCopied_ix, e, ix_succ_toNat hd hmore]
    have hp' : isPreCrc (s.emitCopied v).ph = true := by rw [hph, hp]
    refine ⟨by simp [e], ?_, ?_, ?_, tailEmitted_of_pre hp'⟩
    · rw [hph]; exact ph_le_of_lt_phLen hix
    · rw [hph, hixe]; exact hmore
    · rw [State.copied, if_pos hp', hph, hixe, emitCopied_dDlc, hcopied]; omega
  · rw [h11] at hp; cases hp
  · have hph : (s.emitCopied v).ph = 7 := by simp [e]
    have hixe : (s.emitCopied v).ix = 0 := by simp [e]
    refine ⟨by simp [e], by rw [hph]; decide, by rw [hph, hixe]; exact Nat.zero_lt_succ _, ?_, ?_⟩
    · rw [h5] at hix hend hcopied
      have hlt : s.ix.toNat < 4 := hix
      have hge : 4 ≤ s.ix.toNat + 1 := hend
      rw [copied_of_tail (by rw [hph]; rfl), emitCopied_dDlc, hcopied, h0]
      show 19 = 15 + s.ix.toNat + 1
      omega
    · rw [State.tailEmitted, hph, hixe]; rfl
  · have hph : (s.emitCopied v).ph = s.ph + 1 := by simp [e]
    have hixe : (s.emitCopied v).ix = 0 := by simp [e]
    have hle : s.ph + 1 ≤ 11 := by
      rcases pre_cases hp with e | e | e | e | e | e | e <;> rw [e] <;> decide
    refine ⟨by simp [e], by rw [hph]; exact hle, ?_, ?_, ?_⟩
    · rw [hph, hixe]
      exact phLen_succ_pos hp h5
    · have hlen := phaseStart_add_phLen s.dDlc hp
      rw [copied_of_ix_zero (by rw [hph]; exact hle) hixe, hph, emitCopied_dDlc, hcopied]
      omega
    · rw [State.tailEmitted, hph, hixe]
      rcases pre_cases hp with e | e | e | e | e | e | e <;> rw [e] <;> rfl

/-- After a beat of the tail the sequencer is at the next bit of the tail, or at rest after the last
one. -/
theorem emitCopied_position_of_tail (hp : isPreCrc s.ph = false) (hle : s.ph ≤ 11) (hd : s.dDlc ≤ 8)
    (hix : s.ix.toNat < phLen s.ph s.dDlc) :
    ((s.emitCopied v).mode = modeRun ∧ (s.emitCopied v).ph ≤ 11 ∧
      (s.emitCopied v).ix.toNat < phLen (s.emitCopied v).ph s.dDlc ∧
      (s.emitCopied v).copied = s.copied ∧ (s.emitCopied v).tailEmitted = s.tailEmitted + 1) ∨
    ((s.emitCopied v).mode = modeIdle ∧ (s.emitCopied v).ph = 0 ∧ (s.emitCopied v).ix = 0) := by
  rcases advance_cases s.ph s.ix s.dDlc with
    ⟨hmore, e⟩ | ⟨-, -, e⟩ | ⟨-, h5, -, -⟩ | ⟨hend, h11, -, e⟩
  · have hph : (s.emitCopied v).ph = s.ph := by simp [e]
    have hixe : (s.emitCopied v).ix.toNat = s.ix.toNat + 1 := by
      rw [emitCopied_ix, e, ix_succ_toNat hd hmore]
    refine .inl ⟨by simp [e], by rw [hph]; exact hle, by rw [hph, hixe]; exact hmore, ?_, ?_⟩
    · rw [copied_of_tail hp, copied_of_tail (by rw [hph]; exact hp), emitCopied_dDlc]
    · rw [State.tailEmitted, State.tailEmitted, hph, hixe]
      rcases tail_cases hp hle with e | e | e | e | e <;> rw [e] at hmore ⊢
      case inr.inr.inr.inr => exact (Nat.add_assoc 18 _ 1).symm
      case inl => rfl
      all_goals exact absurd hmore (Nat.not_lt.mpr (Nat.le_add_left 1 _))
  · exact .inr (by simp [e])
  · rw [h5] at hp; cases hp
  · have hph : (s.emitCopied v).ph = s.ph + 1 := by simp [e]
    have hixe : (s.emitCopied v).ix = 0 := by simp [e]
    have hcopied : isPreCrc (s.ph + 1) = false → (s.emitCopied v).copied = s.copied := fun h => by
      rw [copied_of_tail hp, copied_of_tail (by rw [hph]; exact h), emitCopied_dDlc]
    rw [State.tailEmitted, State.tailEmitted, hph, hixe]
    refine .inl ⟨by simp [e], ?_⟩
    rcases tail_cases hp hle with e | e | e | e | e <;> rw [e] at hend hix hcopied h11 ⊢
    · have hlt : s.ix.toNat < 15 := hix
      have hge : 15 ≤ s.ix.toNat + 1 := hend
      exact ⟨by decide, Nat.zero_lt_succ _, hcopied rfl, show 15 = s.ix.toNat + 1 by omega⟩
    · exact ⟨by decide, Nat.zero_lt_succ _, hcopied rfl, rfl⟩
    · exact ⟨by decide, Nat.zero_lt_succ _, hcopied rfl, rfl⟩
    · exact ⟨by decide, Nat.zero_lt_succ _, hcopied rfl, rfl⟩
    · exact absurd rfl h11

end Position

/-! ### The detector after a beat (R161) -/

/-- A beat of a pre-CRC phase is CRC.STEP and STUFF.STEP on its bit: if the detector registers agree
with `st` before it, they agree with the next detector state after it, and `sp` says that an insertion
became due (R161). -/
theorem emitCopied_registers_of_pre {s : State} {st : StuffState} (v : Bit)
    (hp : isPreCrc s.ph = true) (hs : s.sp = 0) (hle : st.run ≤ 4) (hrun : s.run.toNat = st.run)
    (hprev : s.run ≠ 0 → s.prev = st.prev) :
    (s.emitCopied v).crc = crcStep s.crc v ∧ (s.emitCopied v).prev = v ∧
    (s.emitCopied v).run.toNat = (stuffStep st v).run ∧ (stuffStep st v).prev = v ∧
    (stuffStep st v).out.length = st.out.length + 1 + (s.emitCopied v).sp.toNat ∧
    ((s.emitCopied v).sp = 1 → runCount st.run st.prev v = 5) := by
  have hcount : runCount s.run.toNat s.prev v = runCount st.run st.prev v := by
    by_cases h0 : s.run = 0
    · have : st.run = 0 := by rw [← hrun, h0]; rfl
      simp [runCount, h0, this]
    · rw [hrun, hprev h0]
  have hle5 := runCount_le hle st.prev v
  rcases feed_cases (s.transfer (s.copiedBeat v)) v with ⟨hp', -⟩ | ⟨-, h5, e⟩ | ⟨-, h5, e⟩
  · rw [State.transfer_ph, hp] at hp'; cases hp'
  · rw [State.transfer_run, State.transfer_prev, hcount] at h5
    rcases stuffStep_cases st v with ⟨-, e'⟩ | ⟨hne, -⟩
    · simp [State.emitCopied, e, e', h5]
    · exact absurd h5 hne
  · rw [State.transfer_run, State.transfer_prev, hcount] at h5 e
    rcases stuffStep_cases st v with ⟨h5', -⟩ | ⟨-, e'⟩
    · exact absurd h5' h5
    · have hmod : runCount st.run st.prev v % 8 = runCount st.run st.prev v := by omega
      simp [State.emitCopied, e, e', hs, hmod]

/-! ### A frame in progress stays on the track of `assemble` (R42, R181) -/

/-- From the CRC phase on all of `U` is copied. -/
theorem take_copied_of_tail {s : State} (h : isPreCrc s.ph = false) :
    (preCrc s.latched).take s.copied = preCrc s.latched := by
  refine List.take_of_length_le ?_
  rw [preCrc_length, copied_of_tail h]
  exact le_rfl

theorem tailEmitted_le {s : State} (hle : s.ph ≤ 11) (hix : s.ix.toNat < phLen s.ph s.dDlc) :
    s.tailEmitted ≤ 24 := by
  cases hp : isPreCrc s.ph
  · exact Nat.le_of_lt_succ (tailEmitted_lt hp hle hix).1
  · rw [tailEmitted_of_pre hp]; omega

section Tracks

variable {base : List Beat} {s : State}

/-- The position in `bits` a tracking frame has reached (R36, R42). -/
theorem State.Tracks.opos_add_sp (h : s.Tracks base) :
    s.opos.toNat + s.sp.toNat = spos (preCrc s.latched) s.copied + s.tailEmitted := h.opos_eq

theorem State.Tracks.opos_add_sp_le (h : s.Tracks base) (hd : s.dDlc ≤ 8) :
    s.opos.toNat + s.sp.toNat ≤ 123 := by
  have h1 := spos_preCrc_le (d := s.latched) hd s.copied
  have h2 := tailEmitted_le h.ph_le h.ix_lt
  rw [h.opos_add_sp]
  omega

theorem opos_succ_toNat (h : s.opos.toNat ≤ 123) : (s.opos + 1).toNat = s.opos.toNat + 1 := by
  rw [BitVec.toNat_add]
  exact Nat.mod_eq_of_lt (by simp; omega)

/-- The stuff beat that is pending is the next beat of the response; after it the position is that of the
bits copied (R174). -/
theorem State.Tracks.emitStuffed (h : s.Tracks base) (hd : s.dDlc ≤ 8) (hs : s.sp = 1) :
    s.emitStuffed.Tracks base := by
  have hle := h.opos_add_sp_le hd
  have hpos := h.opos_eq
  rw [hs] at hle hpos
  have hopos := opos_succ_toNat (s := s) (by omega)
  obtain ⟨-, -, hbeat, -⟩ := h.pending hs
  exact {
    mode_run := h.mode_run
    ecode_zero := h.ecode_zero
    ph_le := h.ph_le
    ix_lt := h.ix_lt
    crc_eq := h.crc_eq
    run_eq := h.run_eq
    prev_eq := h.prev_eq
    opos_eq := (congrArg (· + 0) hopos).trans hpos
    pending := fun h0 => absurd h0 (by simp)
    sent_eq := by
      show s.sent ++ [s.stuffedBeat] = base ++ (construct s.latched).response.take (s.opos + 1).toNat
      rw [hopos, take_succ_of_getElem? hbeat, h.sent_eq, List.append_assoc] }

/-- A copied-bit beat before the CRC (R161 to R168). -/
theorem State.Tracks.emitCopied_of_pre (h : s.Tracks base) (hd : s.dDlc ≤ 8) (hs : s.sp = 0)
    (hp : isPreCrc s.ph = true) : (s.emitCopied s.sourceBit).Tracks base := by
  have hbit := preCrc_getElem?_copied hd hp h.ix_lt
  have hnext := stuffRun_take_succ hbit
  obtain ⟨hmode, hph, hix, hcopied, htail⟩ :=
    emitCopied_position_of_pre s.sourceBit hd hp h.ix_lt
  obtain ⟨hcrc, hprev, hrun, hstprev, hout, hdue⟩ := emitCopied_registers_of_pre s.sourceBit hp hs
    (stuffRun_run_le _) h.run_eq h.prev_eq
  have hpos : s.opos.toNat = spos (preCrc s.latched) s.copied := by
    have := h.opos_add_sp
    rwa [hs, tailEmitted_of_pre hp] at this
  have hopos : (s.emitCopied s.sourceBit).opos.toNat = s.opos.toNat + 1 := by
    have := h.opos_add_sp_le hd
    rw [emitCopied_opos, opos_succ_toNat (by omega)]
  exact {
    mode_run := hmode
    ecode_zero := by rw [emitCopied_ecode, h.ecode_zero]
    ph_le := hph
    ix_lt := by rw [emitCopied_dDlc]; exact hix
    crc_eq := by
      rw [emitCopied_latched, hcopied, take_succ_of_getElem? hbit, crc15_snoc, ← h.crc_eq, hcrc]
    run_eq := by rw [emitCopied_latched, hcopied, hnext, hrun]
    prev_eq := fun _ => by rw [emitCopied_latched, hcopied, hnext, hprev, hstprev]
    opos_eq := by
      rw [emitCopied_latched, hcopied, hnext, hout, htail, hopos, hpos]
      rfl
    pending := fun hsp => by
      have h5 := hdue hsp
      refine ⟨?_, ?_, ?_, s.copiedBeat s.sourceBit, ?_, rfl, rfl, ?_⟩
      · refine BitVec.eq_of_toNat_eq ?_
        rcases stuffStep_cases _ s.sourceBit with ⟨-, e⟩ | ⟨hne, -⟩
        · rw [hrun, e]; rfl
        · exact absurd h5 hne
      · rw [emitCopied_ltag]
        simpa [isPreCrc] using hp
      · rw [emitCopied_latched, hopos, hpos, response_at_inserted hp h.ix_lt hd h5,
          State.stuffedBeat, hprev, emitCopied_ltag]
      · rw [emitCopied_sent, List.getLast?_concat]
      · exact (emitCopied_ltag _ _).symm
    sent_eq := by
      have hbeat := response_at_copied hp h.ix_lt hd
      rw [← hpos] at hbeat
      rw [emitCopied_sent, emitCopied_latched, hopos, take_succ_of_getElem? hbeat, h.sent_eq,
        List.append_assoc] }

/-- A copied-bit beat of the tail: on to the next position, or to rest after the last one (R169 to
R173, R177). -/
theorem State.Tracks.emitCopied_of_tail (h : s.Tracks base) (hd : s.dDlc ≤ 8) (hs : s.sp = 0)
    (hp : isPreCrc s.ph = false) :
    (s.emitCopied s.sourceBit).Tracks base ∨ (s.emitCopied s.sourceBit).AtRest := by
  obtain ⟨hcrc, hrun, hprev, hsp⟩ := emitCopied_registers_of_tail s.sourceBit hp
  have hsp0 : (s.emitCopied s.sourceBit).sp = 0 := hsp.trans hs
  rcases emitCopied_position_of_tail s.sourceBit hp h.ph_le hd h.ix_lt with
    ⟨hmode, hph, hix, hcopied, htail⟩ | ⟨hmode, hph, hix⟩
  · have hpos : s.opos.toNat = spos (preCrc s.latched) s.copied + s.tailEmitted := by
      have := h.opos_add_sp
      rwa [hs] at this
    have hopos : (s.emitCopied s.sourceBit).opos.toNat = s.opos.toNat + 1 := by
      have := h.opos_add_sp_le hd
      rw [emitCopied_opos, opos_succ_toNat (by omega)]
    refine .inl {
      mode_run := hmode
      ecode_zero := by rw [emitCopied_ecode, h.ecode_zero]
      ph_le := hph
      ix_lt := by rw [emitCopied_dDlc]; exact hix
      crc_eq := by rw [emitCopied_latched, hcopied, hcrc, h.crc_eq]
      run_eq := by rw [emitCopied_latched, hcopied, hrun, h.run_eq]
      prev_eq := fun hne => by
        rw [emitCopied_latched, hcopied, hprev]
        exact h.prev_eq (hrun ▸ hne)
      opos_eq := ?_
      pending := fun h1 => by rw [hsp0] at h1; cases h1
      sent_eq := ?_ }
    · rw [emitCopied_latched, hcopied, htail, hopos, hsp0, hpos]
      rfl
    · have hcrc' : s.crc = crc15 (preCrc s.latched) := by rw [h.crc_eq, take_copied_of_tail hp]
      have hbeat := response_at_tail hp h.ph_le h.ix_lt hcrc'
      have hall : spos (preCrc s.latched) s.copied =
          spos (preCrc s.latched) (preCrc s.latched).length := by
        rw [spos_length, spos_eq, take_copied_of_tail hp]
      rw [← hall, ← hpos] at hbeat
      rw [emitCopied_sent, emitCopied_latched, hopos, take_succ_of_getElem? hbeat, h.sent_eq,
        List.append_assoc]
  · exact .inr {
      mode_ecode := .inl ⟨hmode, by rw [emitCopied_ecode, h.ecode_zero]⟩
      ph_zero := hph
      ix_zero := hix
      sp_zero := hsp0
      run_le := by rw [hrun, h.run_eq]; exact stuffRun_run_le _ }

end Tracks

/-! ### The invariant of the machine (R42) -/

/-- The environment and the record of returned values are no part of the invariant. -/
theorem State.Inv.environment {s : State} (h : s.Inv) (p : Pins) (f : List Pins) (c : List Call)
    (r : Returned) : ({ s with pins := p, future := f, calls := c, returned := r } : State).Inv where
  dlc_le := h.dlc_le
  cases := h.cases.imp (fun ⟨hm, hph, hix, hsp, hrun⟩ => ⟨hm, hph, hix, hsp, hrun⟩)
    fun ⟨base, ⟨hm, he, hph, hix, hcrc, hrun, hprev, hopos, hpend, hsent⟩⟩ =>
      ⟨base, ⟨hm, he, hph, hix, hcrc, hrun, hprev, hopos, hpend, hsent⟩⟩

theorem State.Inv.nextPins {s : State} (h : s.Inv) : s.nextPins.Inv := by
  unfold State.nextPins
  split
  · exact h
  · exact h.environment _ _ _ _

/-- Reset registers are at rest, whatever the environment (R41). -/
theorem inv_resetRegisters (s : State) : s.resetRegisters.Inv where
  dlc_le := by simp
  cases := .inl ⟨.inl ⟨rfl, rfl⟩, rfl, rfl, rfl, Nat.zero_le _⟩

/-- Settles O50: the reset registers are at rest. -/
theorem resetMeetsTheInvariant : Obligations.ResetMeetsTheInvariant := inv_resetRegisters State.reset

/-- Outside RUN the position is at rest. -/
theorem State.Inv.atRest {s : State} (h : s.Inv) (hm : s.mode ≠ modeRun) : s.AtRest := by
  rcases h.cases with hrest | ⟨base, ht⟩
  · exact hrest
  · exact absurd ht.mode_run hm

/-- In RUN a frame is in progress and tracks `assemble`. -/
theorem State.Inv.tracks {s : State} (h : s.Inv) (hm : s.mode = modeRun) : ∃ base, s.Tracks base := by
  rcases h.cases with hrest | ht
  · rcases hrest.mode_ecode with ⟨hi, -⟩ | ⟨he, -⟩
    · rw [hi] at hm; exact absurd hm (by decide)
    · rw [he] at hm; exact absurd hm (by decide)
  · exact ht

theorem code_ne_zero (e : EncodeError) : e.code ≠ 0 := by
  cases e <;> simp [EncodeError.code]

/-- A frame starts on the track of `assemble`: nothing is copied and nothing is sent (R160). -/
theorem tracks_startFrame (s : State) (c : Command) : (s.startFrame c).Tracks s.sent where
  mode_run := rfl
  ecode_zero := rfl
  ph_le := by simp
  ix_lt := Nat.zero_lt_one
  crc_eq := rfl
  run_eq := rfl
  prev_eq := fun h => absurd rfl h
  opos_eq := rfl
  pending := fun h => absurd h (by simp)
  sent_eq := by simp

/-- Accepting a command keeps the invariant, whichever way VALIDATE answers (R160). -/
theorem State.Inv.acceptCommand {s : State} (h : s.Inv) (hm : s.mode = modeIdle) (c : Command) :
    (s.acceptCommand c).Inv := by
  have hrest := h.atRest (by rw [hm]; decide)
  rcases acceptCommand_cases s c with ⟨e, -, ha⟩ | ⟨hval, ha⟩ <;> rw [ha]
  · exact ⟨h.dlc_le, .inl ⟨.inr ⟨rfl, code_ne_zero e⟩, hrest.ph_zero, hrest.ix_zero, hrest.sp_zero,
      hrest.run_le⟩⟩
  · obtain ⟨-, hdlc, -⟩ := validateUnder_eq_none hval
    exact ⟨hdlc, .inr ⟨s.sent, tracks_startFrame s c⟩⟩

/-- The error beat leaves the position at rest (R176, R198). -/
theorem State.Inv.returnFromError {s : State} (h : s.Inv) (hm : s.mode = modeErr) :
    s.returnFromError.Inv := by
  have hrest := h.atRest (by rw [hm]; decide)
  exact ⟨h.dlc_le, .inl ⟨.inl ⟨rfl, rfl⟩, hrest.ph_zero, hrest.ix_zero, hrest.sp_zero, hrest.run_le⟩⟩

/-- A copied-bit beat keeps the invariant. -/
theorem State.Inv.emitCopied {s : State} (h : s.Inv) (hm : s.mode = modeRun) (hs : s.sp = 0) :
    (s.emitCopied s.sourceBit).Inv := by
  obtain ⟨base, ht⟩ := h.tracks hm
  refine ⟨by rw [emitCopied_dDlc]; exact h.dlc_le, ?_⟩
  cases hp : isPreCrc s.ph
  · exact (ht.emitCopied_of_tail h.dlc_le hs hp).symm.imp id fun ht' => ⟨base, ht'⟩
  · exact .inr ⟨base, ht.emitCopied_of_pre h.dlc_le hs hp⟩

/-- A stuff beat keeps the invariant. -/
theorem State.Inv.emitStuffed {s : State} (h : s.Inv) (hm : s.mode = modeRun) (hs : s.sp = 1) :
    s.emitStuffed.Inv := by
  obtain ⟨base, ht⟩ := h.tracks hm
  exact ⟨h.dlc_le, .inr ⟨base, ht.emitStuffed h.dlc_le hs⟩⟩

/-- Settles O51: a call touches no register, a reset edge gives the reset registers, and each effect of an
edge keeps the frame on the track of `assemble` or leaves it at rest. -/
theorem stepKeepsTheInvariant : Obligations.StepKeepsTheInvariant := by
  intro s t h hstep
  rcases step_eq_next hstep with ⟨rest, v, rfl⟩ | ⟨-, rfl⟩ | ⟨-, hstuck, rfl⟩
  · exact h.environment s.pins s.future rest v
  · exact (inv_resetRegisters s).nextPins
  · refine State.Inv.nextPins ?_
    rcases edgeEffect_cases hstuck with
      ⟨hm, -, e⟩ | e | ⟨hm, -, e⟩ | ⟨hm, hs, -, e⟩ | ⟨hm, hs, -, e⟩ <;> rw [e]
    · exact h.acceptCommand hm _
    · exact h
    · exact h.returnFromError hm
    · exact h.emitStuffed hm hs
    · exact h.emitCopied hm hs

/-- A frame in progress meets the clauses of R42. -/
theorem State.Tracks.reachable42 {base : List Beat} {s : State} (h : s.Tracks base) (hd : s.dDlc ≤ 8) :
    s.Reachable42 where
  mode_le := .inr (.inl h.mode_run)
  err_iff := by simp [h.mode_run, h.ecode_zero]
  dlc_le := fun _ => hd
  ph_le := h.ph_le
  ix_lt := h.ix_lt
  run_le := by rw [h.run_eq]; exact stuffRun_run_le _
  sp_run := fun hs => by
    obtain ⟨hrun, hltag, -, b, hlast, herr, hstuff, hfield⟩ := h.pending hs
    exact ⟨h.mode_run, hrun, b, hlast, herr, hstuff, hfield ▸ hltag⟩
  opos_le := fun _ => (Nat.le_add_right _ _).trans (h.opos_add_sp_le hd)
  crc_eq := fun hph => by
    have hp : isPreCrc s.ph = false := by
      generalize s.ph = ph at hph
      revert ph; decide
    rw [h.crc_eq, take_copied_of_tail hp]

/-- A state at rest meets the clauses of R42. -/
theorem State.AtRest.reachable42 {s : State} (h : s.AtRest) : s.Reachable42 := by
  have hrun : s.mode ≠ modeRun := by
    rcases h.mode_ecode with ⟨hm, -⟩ | ⟨hm, -⟩ <;> rw [hm] <;> decide
  exact {
    mode_le := h.mode_ecode.imp And.left fun he => .inr he.1
    err_iff := by
      rcases h.mode_ecode with ⟨hm, he⟩ | ⟨hm, he⟩
      · exact iff_of_false (by rw [hm]; decide) (not_not.mpr he)
      · exact iff_of_true hm he
    dlc_le := fun hm => absurd hm hrun
    ph_le := by rw [h.ph_zero]; decide
    ix_lt := by rw [h.ph_zero, h.ix_zero]; exact Nat.zero_lt_one
    run_le := h.run_le
    sp_run := fun hs => by rw [h.sp_zero] at hs; cases hs
    opos_le := fun hm => absurd hm hrun
    crc_eq := fun hph => by rw [h.ph_zero] at hph; exact absurd hph (by decide) }

/-- Settles O52: clause by clause, at rest and in a frame. -/
theorem invariantGivesTheStateInvariants : Obligations.InvariantGivesTheStateInvariants := by
  intro s h
  rcases h.cases with hrest | ⟨base, ht⟩
  · exact hrest.reachable42
  · exact ht.reachable42 h.dlc_le

/-- What holds of a state and is kept by every step holds after every run. -/
theorem run_keeps {P : State → Prop} (hstep : ∀ s t, P s → step s = .next t → P t) (k : Nat)
    {s t : State} (hs : P s) (h : Host.Core.run Sys2Proof.core k s = .next t) : P t := by
  induction k generalizing s with
  | zero => cases h; exact hs
  | succ k ih =>
    simp only [Host.Core.run] at h
    split at h
    · next u hu => exact ih (hstep s u hs hu) h
    · cases h
    · cases h

/-- Settles O53: the run starts in the reset registers, whatever the environment, and every step keeps
the invariant. -/
theorem statesReachedFromResetMeetTheStateInvariants :
    Obligations.StatesReachedFromResetMeetTheStateInvariants := by
  intro pins future calls k s h
  have hreset := resetMeetsTheInvariant.environment pins future calls State.reset.returned
  exact invariantGivesTheStateInvariants s (run_keeps stepKeepsTheInvariant k hreset h)

end Sys2Proof.Machine

namespace Sys2Proof.Machine

open Claims

/-! ### Data bytes and lanes (R53, R54, R58) -/

/-- The low bit that `natBit` cuts out is already all that a bit holds. -/
theorem natBit_eq (n i : Nat) : natBit n i = BitVec.ofNat 1 (n >>> i) := by
  apply BitVec.eq_of_toNat_eq
  simp [natBit, Nat.and_one_is_mod]

/-- The numbered bits of a word's value are the word's bits. -/
theorem natBit_toNat {w : Nat} (b : BitVec w) (i : Nat) :
    natBit b.toNat i = BitVec.ofBool (b.getLsbD i) := by
  have hbit (t : Bool) : BitVec.ofNat 1 t.toNat = BitVec.ofBool t := by cases t <;> rfl
  rw [natBit, Nat.and_one_is_mod, Nat.shiftRight_eq_div_pow, ← Nat.toNat_testBit, hbit,
    BitVec.testBit_toNat]

/-- Bit `i` of the data field of `U` is its place in its padded byte (R53, R58). -/
theorem concatBits_usedBytes_getElem? (d : Descriptor) {i : Nat} (hi : i < 8 * d.dlc) :
    (concatBits ((usedBytes d).map (msbFirst 8)))[i]? =
      some (natBit (dataByte d.dataBytes (i / 8)) (7 - i % 8)) := by
  have hget := (concatBits_range_map (f := msbFirst 8 ∘ dataByte d.dataBytes)
    (fun _ => msbFirst_length 8 _) d.dlc).2 i hi
  rw [usedBytes, List.map_map, hget, natBit_eq]
  exact msbFirst_getElem? (Nat.mod_lt i (by decide)) _

/-- Settles O21: the bits of `U` field by field, the data field byte by byte. -/
theorem unstuffedSequenceHasTheFieldMap : Obligations.UnstuffedSequenceHasTheFieldMap := by
  intro d _
  obtain ⟨hsof, hid, hrtr, hide, hr0, hdlc, hdata⟩ := preCrc_getElem? d
  refine ⟨preCrc_length d, hsof, fun i hi => ?_, ?_, hide, hr0, fun i hi => ?_, fun i hi => ?_⟩
  · rw [hid i hi, natBit_eq]
  · rw [hrtr]
    cases d.remoteRequest <;> rfl
  · rw [hdlc i hi, natBit_eq]
  · rw [hdata i, concatBits_usedBytes_getElem? d hi, dataByte]

/-- Lane `k` of the latched data is the padded lane `k` (R54). -/
theorem lane_paddedData (nbytes : BitVec 4) (data : BitVec 64) {k : Nat} (hk : k < 8) :
    lane (paddedData nbytes data) k = paddedLane nbytes data k := by
  -- The width is written as the sum of the lanes' widths, the form the library's append lemmas match.
  show BitVec.extractLsb' (n := 8 + 8 + 8 + 8 + 8 + 8 + 8 + 8) (56 - 8 * k) 8
    (paddedData nbytes data) = _
  unfold paddedData
  interval_cases k <;>
    simp (disch := decide) only [Nat.reduceMul, Nat.reduceSub, BitVec.extractLsb'_append_eq_of_le,
      BitVec.extractLsb'_append_eq_right, BitVec.extractLsb'_eq_self]

/-- Bit `63 - i` of the data word is bit `7 - i mod 8` of lane `i div 8` (R54). -/
theorem getLsbD_lane (data : BitVec 64) {i : Nat} (hi : i < 64) :
    (lane data (i / 8)).getLsbD (7 - i % 8) = data.getLsbD (63 - i) := by
  have hpos : 56 - 8 * (i / 8) + (7 - i % 8) = 63 - i := by omega
  have hlt : 7 - i % 8 < 8 := by omega
  simp [lane, hpos, hlt]

/-- The padded lane is the byte that the descriptor of the command gives (R53, R54). -/
theorem dataByte_descriptorOf (c : Command) (k : Nat) :
    dataByte (descriptorOf c).dataBytes k = (paddedLane c.nbytes c.data k).toNat := by
  by_cases hk : k < suppliedBytes c.nbytes <;> simp [dataByte, descriptorOf, paddedLane, hk]

/-- Settles O38: lane by lane the latch is the padded lane, and bit by bit the descriptor's byte. -/
theorem latchHoldsThePaddedLanes : Obligations.LatchHoldsThePaddedLanes := by
  intro c
  refine ⟨fun k hk => lane_paddedData c.nbytes c.data hk, fun i hi => ?_⟩
  have hbyte : i / 8 < 8 := by omega
  calc BitVec.ofBool ((paddedData c.nbytes c.data).getLsbD (63 - i))
      = BitVec.ofBool ((paddedLane c.nbytes c.data (i / 8)).getLsbD (7 - i % 8)) := by
        rw [← getLsbD_lane _ hi, lane_paddedData _ _ hbyte]
    _ = natBit (dataByte (descriptorOf c).dataBytes (i / 8)) (7 - i % 8) := by
        rw [dataByte_descriptorOf, natBit_toNat]

/-! ### Which input levels an edge reads (R28, R56, R64, R220) -/

/-- `s` with other levels on the input ports. -/
abbrev State.withPins (s : State) (q : Pins) : State := { s with pins := q }

/-- The levels of an edge are forgotten when the plan gives those of the next one. -/
theorem nextPins_withPins {s : State} (q : Pins) {p : Pins} {rest : List Pins}
    (hf : s.future = p :: rest) : (s.withPins q).nextPins = s.nextPins := by
  simp [State.nextPins, hf]

/-- The embedded CRC and detector steps read no input level. -/
theorem feed_withPins (s : State) (q : Pins) (v : Bit) :
    (s.withPins q).feed v = (s.feed v).withPins q := by
  rcases feed_cases s v with ⟨hp, e⟩ | ⟨hp, hr, e⟩ | ⟨hp, hr, e⟩ <;> rw [e]
  · simp [State.feed, hp]
  · simp [State.feed, hp, hr]
  · simp [State.feed, hp, hr]

/-- A copied-bit beat reads no input level. -/
theorem emitCopied_withPins (s : State) (q : Pins) (v : Bit) :
    (s.withPins q).emitCopied v = (s.emitCopied v).withPins q :=
  congrArg State.advancePosition (feed_withPins (s.transfer (s.copiedBeat v)) q v)

/-- No operation of an edge touches the plan of the input levels. -/
@[simp] theorem edgeEffect_future (s : State) : s.edgeEffect.future = s.future := by
  unfold State.edgeEffect
  split_ifs
  · rcases acceptCommand_cases s s.pins.cmd with ⟨e, -, he⟩ | ⟨-, he⟩ <;> simp [he]
  · rfl
  · rfl
  · rfl
  · rfl
  · obtain ⟨-, -, -, -, -, -, hfuture, -⟩ := emitCopied_frame s s.sourceBit
    exact hfuture

/-- In IDLE nothing happens while no command is offered (R178). -/
theorem edgeEffect_of_no_command {s : State} (hm : s.mode = modeIdle) (hv : s.pins.cmdValid ≠ 1) :
    s.edgeEffect = s := by
  rw [State.edgeEffect, if_pos hm, if_neg hv]

/-- Outside IDLE nothing happens while the consumer is not ready (R179). -/
theorem edgeEffect_of_stall {s : State} (hm : s.mode ≠ modeIdle) (hr : s.pins.outReady ≠ 1) :
    s.edgeEffect = s := by
  rw [State.edgeEffect, if_neg hm, if_pos hr]

/-- Outside IDLE with a ready consumer the beat due is taken (R176, R174, R161). -/
theorem edgeEffect_of_ready {s : State} (hm : s.mode ≠ modeIdle) (hr : s.pins.outReady = 1) :
    s.edgeEffect = if s.mode = modeErr then s.returnFromError
      else if s.sp = 1 then s.emitStuffed
      else s.emitCopied s.sourceBit := by
  rw [State.edgeEffect, if_neg hm, if_neg (not_not.mpr hr)]

/-- Where no command is accepted, an edge reads `out_ready` and no other level. -/
theorem edgeEffect_withPins {s : State} {q : Pins} (hready : q.outReady = s.pins.outReady)
    (hcmd : s.mode ≠ modeIdle ∨ (q.cmdValid ≠ 1 ∧ s.pins.cmdValid ≠ 1)) :
    (s.withPins q).edgeEffect = s.edgeEffect.withPins q := by
  by_cases hm : s.mode = modeIdle
  · obtain ⟨hq, hs⟩ := hcmd.resolve_left (not_not.mpr hm)
    rw [edgeEffect_of_no_command hm hs, edgeEffect_of_no_command (s := s.withPins q) hm hq]
  by_cases hr : s.pins.outReady = 1
  · rw [edgeEffect_of_ready hm hr, edgeEffect_of_ready (s := s.withPins q) hm (hready.trans hr)]
    by_cases he : s.mode = modeErr
    · rw [if_pos he, if_pos he]
      rfl
    by_cases hs : s.sp = 1
    · rw [if_neg he, if_neg he, if_pos hs, if_pos hs]
      rfl
    · rw [if_neg he, if_neg he, if_neg hs, if_neg hs, emitCopied_withPins]
      rfl
  · rw [edgeEffect_of_stall hm hr, edgeEffect_of_stall (s := s.withPins q) hm (hready ▸ hr)]

/-- The selected operation and the levels the environment sets after it, in one outcome. -/
theorem afterEdge_unlessStuck (s t : State) :
    afterEdge (s.unlessStuck t) = s.unlessStuck t.nextPins := by
  unfold State.unlessStuck
  split <;> rfl

/-- An edge does not depend on the levels it does not read: all but `rst` at a reset edge, and the
command port where no command is accepted (R28, R220). -/
theorem step_withPins {s : State} {p : Pins} {rest : List Pins} {q : Pins} (hc : s.calls = [])
    (hf : s.future = p :: rest) (hrst : q.rst = s.pins.rst)
    (h : s.pins.rst = 1 ∨ (q.outReady = s.pins.outReady ∧
      (s.mode ≠ modeIdle ∨ (q.cmdValid ≠ 1 ∧ s.pins.cmdValid ≠ 1)))) :
    step (s.withPins q) = step s := by
  rw [step_of_no_call hc, step_of_no_call (s := s.withPins q) hc, edge, edge, hrst]
  by_cases hr : s.pins.rst = 1
  · rw [if_pos hr, if_pos hr]
    exact congrArg Host.Outcome.next (nextPins_withPins (s := s.resetRegisters) q hf)
  · obtain ⟨hready, hcmd⟩ := h.resolve_left hr
    rw [if_neg hr, if_neg hr]
    have hsel : (s.withPins q).select = s.select := rfl
    cases hd : decode (.select s.select) with
    | error e => rw [hsel, hd]
    | ok i =>
      have heffect : (s.withPins q).edgeEffect.nextPins = s.edgeEffect.nextPins := by
        rw [edgeEffect_withPins hready hcmd, nextPins_withPins q (by rw [edgeEffect_future, hf])]
      simp only [hsel, hd]
      rw [exec_selected hd, exec_selected (s := s.withPins q) hd, afterEdge_unlessStuck,
        afterEdge_unlessStuck, heffect]
      rfl

/-- Settles O58: each clause is one way in which an edge does not read the command port. -/
theorem commandInputsAreReadOnlyWhenAccepted :
    Obligations.CommandInputsAreReadOnlyWhenAccepted := by
  intro s p rest c v hc hf
  exact ⟨fun hm => step_withPins hc hf rfl (.inr ⟨rfl, .inl hm⟩),
    fun hv => step_withPins hc hf rfl (.inr ⟨rfl, .inr ⟨hv, hv⟩⟩),
    fun hr => step_withPins hc hf rfl (.inl hr)⟩

end Sys2Proof.Machine

namespace Sys2Proof

/-! ### The command word: packing and the four outcomes (R71, R73) -/

/-- Cutting a packed command word gives back the five fields (R71). -/
@[simp] theorem Command.ofWord_toWord (c : Command) : Command.ofWord c.toWord = c := by
  -- The width is written as the sum of the fields' widths, the form the library's append lemmas match.
  have hword : c.toWord = (c.nbytes ++ c.dlc ++ c.rtr ++ c.id ++ c.data : BitVec (4 + 4 + 1 + 16 + 64)) := rfl
  simp (disch := decide) only [Command.ofWord, hword, Nat.reduceSub, BitVec.extractLsb'_append_eq_of_le,
    BitVec.extractLsb'_append_eq_right, BitVec.extractLsb'_eq_self]

/-- Packing the five fields of a word gives back the word: no bit of it is outside them (R71). -/
@[simp] theorem Command.toWord_ofWord (w : BitVec 89) : (Command.ofWord w).toWord = w := by
  simp (disch := decide) only [Command.toWord, Command.ofWord,
    BitVec.extractLsb'_append_extractLsb'_eq_extractLsb']
  exact BitVec.extractLsb'_eq_self

@[simp] theorem decodeCommand_toWord (c : Command) : decodeCommand c.toWord = decodeCommandFields c := by
  rw [decodeCommand, Command.ofWord_toWord]

theorem decode_command_toWord {c : Command} {i : Instr} (h : decodeCommandFields c = i) :
    decode (.command c.toWord) = .ok i := by
  rw [decode, decodeCommand_toWord, h]

section Outcomes

variable {c : Command}

theorem decodeCommandFields_of_illegalId (hid : 0x7FF < c.id) :
    decodeCommandFields c = .illegalId c := if_pos hid

theorem decodeCommandFields_of_illegalDlc (hid : c.id ≤ 0x7FF) (hdlc : 8 < c.dlc) :
    decodeCommandFields c = .illegalDlc c := by
  rw [decodeCommandFields, if_neg (BitVec.not_lt.mpr hid), if_pos hdlc]

theorem decodeCommandFields_of_data (hid : c.id ≤ 0x7FF) (hdlc : c.dlc ≤ 8) (hrtr : c.rtr = 0) :
    decodeCommandFields c = .encData (.command c.nbytes c.dlc c.id c.data) := by
  rw [decodeCommandFields, if_neg (BitVec.not_lt.mpr hid), if_neg (BitVec.not_lt.mpr hdlc), if_pos hrtr]

theorem decodeCommandFields_of_remote (hid : c.id ≤ 0x7FF) (hdlc : c.dlc ≤ 8) (hrtr : c.rtr = 1) :
    decodeCommandFields c = .encRemote (.command c.nbytes c.dlc c.id c.data) := by
  have hrtr0 : c.rtr ≠ 0 := by rw [hrtr]; decide
  rw [decodeCommandFields, if_neg (BitVec.not_lt.mpr hid), if_neg (BitVec.not_lt.mpr hdlc), if_neg hrtr0]

/-- Every command has one of the four outcomes of R73. -/
theorem decodeCommandFields_cases (c : Command) :
    (0x7FF < c.id ∧ decodeCommandFields c = .illegalId c) ∨
    (c.id ≤ 0x7FF ∧ 8 < c.dlc ∧ decodeCommandFields c = .illegalDlc c) ∨
    (c.id ≤ 0x7FF ∧ c.dlc ≤ 8 ∧ c.rtr = 0 ∧
      decodeCommandFields c = .encData (.command c.nbytes c.dlc c.id c.data)) ∨
    (c.id ≤ 0x7FF ∧ c.dlc ≤ 8 ∧ c.rtr = 1 ∧
      decodeCommandFields c = .encRemote (.command c.nbytes c.dlc c.id c.data)) := by
  by_cases hid : 0x7FF < c.id
  · exact .inl ⟨hid, decodeCommandFields_of_illegalId hid⟩
  replace hid := BitVec.not_lt.mp hid
  by_cases hdlc : 8 < c.dlc
  · exact .inr (.inl ⟨hid, hdlc, decodeCommandFields_of_illegalDlc hid hdlc⟩)
  replace hdlc := BitVec.not_lt.mp hdlc
  rcases Machine.bit_cases c.rtr with hrtr | hrtr
  · exact .inr (.inr (.inl ⟨hid, hdlc, hrtr, decodeCommandFields_of_data hid hdlc hrtr⟩))
  · exact .inr (.inr (.inr ⟨hid, hdlc, hrtr, decodeCommandFields_of_remote hid hdlc hrtr⟩))

end Outcomes

/-- Settles O32: a packed command word is cut into the same fields and has the outcome its well-formedness
names; selection words and calls decode by computation. -/
theorem decodeOfEncodeIsTheInstruction : Obligations.DecodeOfEncodeIsTheInstruction := by
  intro i hwf
  cases i with
  | encData form =>
    cases form with
    | call identifier dlc dataBytes => rfl
    | command nbytes dlc id data =>
      obtain ⟨hid, hdlc⟩ : id ≤ 0x7FF ∧ dlc ≤ 8 := by simpa [Instr.wellFormed, EncForm.wellFormed] using hwf
      exact decode_command_toWord (decodeCommandFields_of_data hid hdlc rfl)
  | encRemote form =>
    cases form with
    | call identifier dlc dataBytes => rfl
    | command nbytes dlc id data =>
      obtain ⟨hid, hdlc⟩ : id ≤ 0x7FF ∧ dlc ≤ 8 := by simpa [Instr.wellFormed, EncForm.wellFormed] using hwf
      exact decode_command_toWord (decodeCommandFields_of_remote hid hdlc rfl)
  | illegalId cmd =>
    have hid : 0x7FF < cmd.id := by simpa [Instr.wellFormed] using hwf
    exact decode_command_toWord (decodeCommandFields_of_illegalId hid)
  | illegalDlc cmd =>
    obtain ⟨hid, hdlc⟩ : cmd.id ≤ 0x7FF ∧ 8 < cmd.dlc := by simpa [Instr.wellFormed] using hwf
    exact decode_command_toWord (decodeCommandFields_of_illegalDlc hid hdlc)
  | accept | phSof | phId | phRtr | phIde | phR0 | phDlc | phData | phCrc | phCrcDel | phAck | phAckDel
  | phEof | stuffBeat | errBeat => rfl
  | int2bits _ _ | bytes2bits _ | concat _ | bits2int _ | crcInit | crcStep _ _ | crc15 _ | stuffInit
  | stuffStep _ _ _ _ _ | stuff _ | destuff _ _ | validate _ => rfl

/-- Settles O33: each of the four outcomes is well formed and keeps all the fields of the word. -/
theorem encodeOfDecodeIsTheCommandWord : Obligations.EncodeOfDecodeIsTheCommandWord := by
  intro w
  have hword := Command.toWord_ofWord w
  rw [decodeCommand]
  generalize Command.ofWord w = c at hword
  subst hword
  rcases decodeCommandFields_cases c with ⟨hid, e⟩ | ⟨hid, hdlc, e⟩ | ⟨hid, hdlc, hrtr, e⟩ |
    ⟨hid, hdlc, hrtr, e⟩ <;> rw [e]
  · exact ⟨decide_eq_true hid, rfl⟩
  · exact ⟨Bool.and_eq_true_iff.mpr ⟨decide_eq_true hid, decide_eq_true hdlc⟩, rfl⟩
  · refine ⟨Bool.and_eq_true_iff.mpr ⟨decide_eq_true hid, decide_eq_true hdlc⟩, ?_⟩
    rw [encode, ← hrtr]
  · refine ⟨Bool.and_eq_true_iff.mpr ⟨decide_eq_true hid, decide_eq_true hdlc⟩, ?_⟩
    rw [encode, ← hrtr]

/-- R73's first test reads the five bits above the identifier's eleven. -/
theorem ofWord_id_le_iff (w : BitVec 89) :
    (Command.ofWord w).id ≤ 0x7FF ↔ w.extractLsb' 75 5 = 0 := by
  simp only [Command.ofWord, BitVec.le_def, ← BitVec.toNat_inj, BitVec.extractLsb'_toNat,
    Nat.shiftRight_eq_div_pow, BitVec.ofNat_eq_ofNat, BitVec.toNat_ofNat]
  omega

/-- The field `rtr` of a word is its bit 80 (R71). -/
theorem ofWord_rtr (w : BitVec 89) : (Command.ofWord w).rtr = BitVec.ofBool (w.getLsbD 80) := by
  simp only [Command.ofWord]
  ext i hi
  obtain rfl : i = 0 := by omega
  simp

/-- Settles O31: R73's tests on the fields, written as tests on the bits of the word. -/
theorem commandWordSelectsOneOfFourOperations :
    Obligations.CommandWordSelectsOneOfFourOperations := by
  intro w
  have hid := ofWord_id_le_iff w
  refine ⟨fun h => ?_, fun h hdlc => ?_, fun h hdlc hb => ?_, fun h hdlc hb => ?_⟩
  · exact decodeCommandFields_of_illegalId (BitVec.not_le.mp (hid.not.mpr h))
  · exact decodeCommandFields_of_illegalDlc (hid.mpr h) hdlc
  · exact decodeCommandFields_of_data (hid.mpr h) hdlc (by rw [ofWord_rtr, hb]; rfl)
  · exact decodeCommandFields_of_remote (hid.mpr h) hdlc (by rw [ofWord_rtr, hb]; rfl)

end Sys2Proof

namespace Sys2Proof.Machine

/-- A field of a word as a number: the word divided and reduced. -/
theorem toNat_extractLsb'_eq_div_mod {n : Nat} (w : BitVec n) (start len : Nat) :
    (w.extractLsb' start len).toNat = w.toNat / 2 ^ start % 2 ^ len := by
  rw [BitVec.extractLsb'_toNat, Nat.shiftRight_eq_div_pow]

/-- Settles O30: each field of the word, read as a number. -/
theorem commandWordStandsForItsDescriptor : Obligations.CommandWordStandsForItsDescriptor := by
  intro w
  have hsupplied : suppliedBytes (Command.ofWord w).nbytes = min (w.toNat / 2 ^ 85) 8 := by
    have hw : w.toNat < 2 ^ 89 := w.isLt
    rw [suppliedBytes, Command.ofWord, toNat_extractLsb'_eq_div_mod, Config.nLanes]
    omega
  have hlane (k : Nat) : (lane (Command.ofWord w).data k).toNat = w.toNat / 2 ^ (56 - 8 * k) % 2 ^ 8 := by
    rw [lane, Command.ofWord, BitVec.extractLsb'_extractLsb'_of_le (by omega),
      toNat_extractLsb'_eq_div_mod]
  have hrtr : (Command.ofWord w).rtr = 1 ↔ w.toNat / 2 ^ 80 % 2 = 1 := by
    rw [← BitVec.toNat_inj, Command.ofWord, toNat_extractLsb'_eq_div_mod]
    rfl
  refine ⟨toNat_extractLsb'_eq_div_mod w 64 16, toNat_extractLsb'_eq_div_mod w 81 4,
    beq_iff_eq.trans hrtr, ?_, fun k hk => ?_⟩
  · rw [descriptorOf, List.length_map, List.length_range, hsupplied]
  · rw [descriptorOf, List.length_map, List.length_range] at hk
    rw [descriptorOf, List.getElem?_map, List.getElem?_range hk, Option.map_some, hlane]

/-! ### Command words and selection words at the step (R79, R160) -/

/-- Each of the four outcomes of a command word is that command offered at the port (R160). -/
theorem exec_decodeCommandFields (c : Command) (s : State) :
    exec (decodeCommandFields c) s = offerCommand c s := by
  rcases decodeCommandFields_cases c with ⟨-, e⟩ | ⟨-, -, e⟩ | ⟨-, -, hrtr, e⟩ | ⟨-, -, hrtr, e⟩ <;>
    rw [e, exec]
  · rw [execIllegalId]
  · rw [execIllegalDlc]
  · rw [execEncData, ← hrtr]
  · rw [execEncRemote, ← hrtr]

/-- Settles O39: both are the offered command, accepted in IDLE. -/
theorem acceptRunsTheDecodedCommand : Obligations.AcceptRunsTheDecodedCommand := by
  intro s hm hv
  have hidle : s.mode = modeIdle := hm
  rw [decodeCommand_toWord, exec_decodeCommandFields, offerCommand, exec, execAccept, if_pos hidle,
    if_pos hidle, if_pos hv]

/-- The phase codes number the phase operations in the order of R77. -/
theorem decodePhase_eq_getElem? (ph : BitVec 4) :
    decodePhase ph = [Instr.phSof, .phId, .phRtr, .phIde, .phR0, .phDlc, .phData, .phCrc, .phCrcDel,
      .phAck, .phAckDel, .phEof][ph.toNat]? := by
  revert ph; decide

/-- Settles O34: the fields of the word decide, mode by mode. -/
theorem selectionWordSelectsItsOperation : Obligations.SelectionWordSelectsItsOperation := by
  intro mode sp ph
  obtain ⟨hmode, hsp, hph⟩ := select_fields { State.reset with mode := mode, sp := sp, ph := ph }
  simp only [State.select] at hmode hsp hph
  rw [decodeSelect, hmode, hsp, hph, decodePhase_eq_getElem?]
  rcases mode_cases mode with rfl | rfl | rfl | rfl <;> rfl

/-- Settles O35: each written word is decoded by computation. -/
theorem writtenWordsDecode : Obligations.WrittenWordsDecode := by
  unfold Obligations.WrittenWordsDecode
  decide

/-- An edge without reset is the selected operation, then the next input levels (R79). -/
theorem step_of_select {s : State} {i : Instr} (hc : s.calls = []) (hr : s.pins.rst ≠ 1)
    (hi : decode (.select s.select) = .ok i) : step s = afterEdge (exec i s) := by
  rw [step_of_no_call hc, edge, if_neg hr, hi]

/-- Settles O48: the two kinds of step, and ACCEPT as the decoded command. -/
theorem stepRunsTheSelectedOperation : Obligations.StepRunsTheSelectedOperation := by
  refine ⟨fun s c rest hc => step_of_call hc, fun s i hc hr hi => ?_, fun s hc hr hm hv t ht => ?_,
    fun s hf => ?_, fun s p rest hf => ?_⟩
  · have hstep := step_of_select hc hr hi
    exact ⟨fun t h => by rw [hstep, h]; rfl, fun f h => by rw [hstep, h]; rfl,
      fun r h => by rw [hstep, h]; rfl⟩
  · have hsel : decode (.select s.select) = .ok .accept := decode_select_eq_ok.mpr (.inl ⟨hm, rfl⟩)
    rw [step_of_select hc hr hsel, acceptRunsTheDecodedCommand s hm hv, ht]
    rfl
  · rw [State.nextPins, hf]
  · rw [State.nextPins, hf]

/-- Settles O49: the unreachable selection words decode to their error, which the edge raises. -/
theorem unreachableSelectionIsStuck : Obligations.UnreachableSelectionIsStuck := by
  intro s hc hr h
  have hsel : decode (.select s.select) = .error (.reservedSelect s.select) := by
    rw [decode, State.select, selectionWordSelectsItsOperation]
    rcases h with hm | ⟨hm, hs, hp⟩
    · rw [hm]; rfl
    · have hout : 12 ≤ s.ph.toNat := hp
      rw [hm, hs, List.getElem?_eq_none hout]
      rfl
  rw [step_of_no_call hc, edge, if_neg hr, hsel]

end Sys2Proof.Machine

namespace Sys2Proof.Machine

open Claims

/-! ### How many bits are inserted (R82, R121) -/

/-- What one step spends of its input bit: an insertion uses up five counted bits (R121). -/
theorem stuffStep_budget (st : StuffState) (b : Bit) :
    5 * (stuffStep st b).ins.length + (stuffStep st b).run ≤ 5 * st.ins.length + st.run + 1 := by
  have hcount : runCount st.run st.prev b ≤ st.run + 1 := by unfold runCount; split <;> omega
  rcases stuffStep_cases st b with ⟨h5, e⟩ | ⟨-, e⟩ <;> rw [e]
  · simp only [List.length_append, List.length_singleton]
    omega
  · simp only
    omega

theorem foldl_stuffStep_budget (v : BitSeq) (st : StuffState) :
    5 * (v.foldl stuffStep st).ins.length + (v.foldl stuffStep st).run ≤
      5 * st.ins.length + st.run + v.length := by
  induction v generalizing st with
  | nil => exact le_rfl
  | cons b v ih =>
    have hstep := stuffStep_budget st b
    have hrest := ih (stuffStep st b)
    simp only [List.foldl_cons, List.length_cons]
    omega

theorem stuffStep_prev (st : StuffState) (b : Bit) : (stuffStep st b).prev = b := by
  rcases stuffStep_cases st b with ⟨-, e⟩ | ⟨-, e⟩ <;> rw [e]

/-- A bit that differs from the one before it starts a new count (R121). -/
theorem stuffStep_run_of_ne {st : StuffState} {b : Bit} (h : b ≠ st.prev) :
    (stuffStep st b).run = 1 := by
  have hcount : runCount st.run st.prev b = 1 := if_neg fun hr => h hr.2
  simp [stuffStep, hcount]

/-- The detector right after bit `k` remembers that bit. -/
theorem stuffRun_take_succ_prev {u : BitSeq} {k : Nat} {b : Bit} (h : u[k]? = some b) :
    (stuffRun (u.take (k + 1))).prev = b := by
  rw [stuffRun_take_succ h, stuffStep_prev]

/-- Where two neighbouring bits differ the count starts again, so the bits before them and the bits after
them pay for their insertions separately. -/
theorem stuffRun_ins_le_of_ne {u : BitSeq} {k : Nat} {a b : Bit} (ha : u[k]? = some a)
    (hb : u[k + 1]? = some b) (hne : b ≠ a) :
    5 * (stuffRun u).ins.length ≤ 5 * ((k + 2) / 5) + 1 + (u.length - (k + 2)) := by
  obtain ⟨-, -, -, hhead⟩ := stuffRun_bounds (u.take (k + 2))
  have hrun : (stuffRun (u.take (k + 2))).run = 1 := by
    rw [stuffRun_take_succ hb]
    exact stuffStep_run_of_ne (by rwa [stuffRun_take_succ_prev ha])
  have hrest := foldl_stuffStep_budget (u.drop (k + 2)) (stuffRun (u.take (k + 2)))
  rw [stuffRun, ← List.foldl_append, List.take_append_drop, ← stuffRun, ← stuffRun, hrun,
    List.length_drop] at hrest
  rw [List.length_take] at hhead
  omega

/-- Between two insertions the counter counts the equal bits (R121). -/
theorem stuffRun_counts_equal {u : BitSeq} {j n : Nat} {b : Bit}
    (h : ∀ i, i < n → u[j + i]? = some b) :
    (stuffRun (u.take (j + n))).ins ≠ [] ∨ n ≤ (stuffRun (u.take (j + n))).run := by
  induction n with
  | zero => exact .inr (Nat.zero_le _)
  | succ n ih =>
    rw [← Nat.add_assoc, stuffRun_take_succ (h n (Nat.lt_succ_self n))]
    rcases stuffStep_cases (stuffRun (u.take (j + n))) b with ⟨-, e⟩ | ⟨-, e⟩ <;> rw [e]
    · exact .inl (by simp)
    refine (ih fun i hi => h i (Nat.lt_succ_of_lt hi)).imp id fun hrun => ?_
    show n + 1 ≤ runCount _ _ b
    unfold runCount
    split
    · exact Nat.succ_le_succ hrun
    · next hnew =>
      cases n with
      | zero => exact le_rfl
      | succ n =>
        have hprev := stuffRun_take_succ_prev (h n (by omega))
        exact absurd ⟨by omega, hprev.symm⟩ hnew

/-- Five equal bits force an insertion: the counter cannot reach five (R121, R124). -/
theorem stuffRun_ins_pos_of_five_equal {u : BitSeq} {j : Nat} {b : Bit}
    (h : ∀ i, i < 5 → u[j + i]? = some b) : 0 < (stuffRun u).ins.length := by
  have hle := stuffRun_run_le (u.take (j + 5))
  obtain ⟨p, hp⟩ := List.exists_mem_of_ne_nil _ ((stuffRun_counts_equal h).resolve_right (by omega))
  exact List.length_pos_of_mem ((mem_stuffRun_ins_iff_take (stuffRun_ins_lt hp)).mpr hp)

/-! ### The table of R82 -/

theorem lt_of_insertionBounds {dlc : Nat} {p : Nat × Nat} (h : insertionBounds[dlc]? = some p) :
    dlc < 9 :=
  (List.getElem?_eq_some_iff.mp h).1

/-- IDE, r0 and the leading bits of a dlc of 0 or 1 are five zeros (R58, R82). -/
theorem preCrc_five_zeros {d : Descriptor} (hd : d.dlc ≤ 1) (i : Nat) (hi : i < 5) :
    (preCrc d)[13 + i]? = some 0 := by
  obtain ⟨-, -, -, hide, hr0, hdlc, -⟩ := preCrc_getElem? d
  have hzero (m : Nat) (hm : m < 3) : (preCrc d)[15 + m]? = some 0 := by
    have hshift : d.dlc >>> (3 - m) = 0 :=
      Nat.shiftRight_eq_zero _ _ (hd.trans_lt (Nat.one_lt_two_pow (by omega)))
    rw [hdlc m (by omega), hshift]
    rfl
  interval_cases i
  · exact hide
  · exact hr0
  · exact hzero 0 (by decide)
  · exact hzero 1 (by decide)
  · exact hzero 2 (by decide)

/-- The tabled minimum: 1 for dlc 0 and 1, where five zeros stand in `U`, and 0 for the others. -/
theorem insertionBounds_fst_le {d : Descriptor} {p : Nat × Nat}
    (h : insertionBounds[d.dlc]? = some p) : p.1 ≤ (stuffRun (preCrc d)).ins.length := by
  have htable : ∀ dlc < 9, ∀ q ∈ insertionBounds[dlc]?, q.1 = if dlc ≤ 1 then 1 else 0 := by decide
  rw [htable d.dlc (lt_of_insertionBounds h) p h]
  split
  · next hd => exact stuffRun_ins_pos_of_five_equal (preCrc_five_zeros hd)
  · exact Nat.zero_le _

/-- Each dlc from 1 to 8 has two bits `i` and `i + 1` that differ, so late that the bits after them
(`stuffRun_ins_le_of_ne` at offset 15 of R58) leave room for no more than the tabled maximum. -/
theorem dlc_bits_differ : ∀ dlc < 9, dlc ≠ 0 → ∃ i < 3,
    BitVec.ofNat 1 (dlc >>> (3 - (i + 1))) ≠ BitVec.ofNat 1 (dlc >>> (3 - i)) ∧
    ∀ p ∈ insertionBounds[dlc]?,
      5 * ((15 + i + 2) / 5) + 1 + (19 + 8 * dlc - (15 + i + 2)) < 5 * (p.2 + 1) := by
  decide

/-- The tabled maximum: the bits up to the last change inside the DLC field allow three insertions, and
each five bits after it one more. -/
theorem le_insertionBounds_snd {d : Descriptor} {p : Nat × Nat}
    (h : insertionBounds[d.dlc]? = some p) : (stuffRun (preCrc d)).ins.length ≤ p.2 := by
  by_cases hd : d.dlc = 0
  · obtain ⟨-, -, -, hbudget⟩ := stuffRun_bounds (preCrc d)
    rw [preCrc_length] at hbudget
    have hp : p.2 = 3 := by rw [hd] at h; cases h; rfl
    omega
  · obtain ⟨i, hi, hne, hmax⟩ := dlc_bits_differ d.dlc (lt_of_insertionBounds h) hd
    obtain ⟨-, -, -, -, -, hdlc, -⟩ := preCrc_getElem? d
    have hins := stuffRun_ins_le_of_ne (hdlc i (by omega)) (hdlc (i + 1) (by omega)) hne
    have hp := hmax p h
    rw [preCrc_length] at hins
    omega

/-- A descriptor of each dlc with the fewest insertions. -/
def fewestInsertions (dlc : Nat) : Descriptor := ⟨0x555, dlc, List.replicate dlc 0xAA, true⟩

/-- A descriptor of each dlc with the most insertions: zeros up to the DLC, then its last bit repeated. -/
def mostInsertions (dlc : Nat) : Descriptor :=
  ⟨0, dlc, List.replicate dlc (if dlc % 2 = 0 then 0 else 0xFF), false⟩

theorem extremeDescriptors_reach_insertionBounds : ∀ dlc, dlc < 9 →
    validate (fewestInsertions dlc) = none ∧ validate (mostInsertions dlc) = none ∧
    insertionBounds[dlc]? = some ((stuffRun (preCrc (fewestInsertions dlc))).ins.length,
      (stuffRun (preCrc (mostInsertions dlc))).ins.length) := by
  decide +kernel

theorem assemble_of_validate {d : Descriptor} (h : validate d = none) :
    assemble d = .ok (construct d) := by
  rw [assemble, h]

/-- The inserted bits are what a frame has beside its 44 fixed bits and its data (R82, R147). -/
theorem construct_bits_length_eq (d : Descriptor) :
    (construct d).bits.length = 44 + 8 * d.dlc + (construct d).insertedPositions.length := by
  obtain ⟨-, -, hout, -⟩ := stuffRun_bounds (preCrc d)
  have hins : (construct d).insertedPositions = (stuffRun (preCrc d)).ins := rfl
  rw [construct_bits_length, spos_length, hout, preCrc_length, hins]
  omega

/-- Settles O24: the table bounds the insertions of `U`, and the extreme descriptors reach it. -/
theorem insertedBitsPerDlcHaveTheTabledBounds :
    Obligations.InsertedBitsPerDlcHaveTheTabledBounds := by
  refine ⟨fun d r hr => ?_, fun dlc lo hi h => ?_⟩
  · obtain ⟨hval, rfl⟩ := assemble_eq_ok hr
    obtain ⟨-, hdlc, -⟩ := validateUnder_eq_none hval
    obtain ⟨p, hp⟩ : ∃ p, insertionBounds[d.dlc]? = some p :=
      ⟨_, List.getElem?_eq_getElem (Nat.lt_succ_of_le hdlc)⟩
    have hlo : p.1 ≤ (construct d).insertedPositions.length := insertionBounds_fst_le hp
    have hhi : (construct d).insertedPositions.length ≤ p.2 := le_insertionBounds_snd hp
    rw [construct_bits_length_eq]
    exact ⟨p.1, p.2, hp, hlo, hhi, by omega, by omega⟩
  · obtain ⟨hfew, hmost, htable⟩ :=
      extremeDescriptors_reach_insertionBounds dlc (lt_of_insertionBounds h)
    obtain ⟨rfl, rfl⟩ := Prod.mk.inj (Option.some.inj (h.symm.trans htable))
    exact ⟨fewestInsertions dlc, mostInsertions dlc, _, _, rfl, rfl, assemble_of_validate hfew, rfl,
      assemble_of_validate hmost, rfl⟩

end Sys2Proof.Machine

namespace Sys2Proof.Machine

open Claims

/-! ### INT2BITS (R100, R101) -/

theorem exec_int2bits_of_lt (s : State) {value width : Nat} (h : value < 2 ^ width) :
    exec (.int2bits value width) s = .next (returning s (.bits (msbFirst width value))) := by
  show execInt2Bits value width s = _
  rw [execInt2Bits, intToBits_of_lt h]
  rfl

theorem exec_int2bits_of_ge (s : State) {value width : Nat} (h : 2 ^ width ≤ value) :
    exec (.int2bits value width) s = .refused (.valueOutOfWidth value width) := by
  show execInt2Bits value width s = _
  rw [execInt2Bits, intToBits_of_ge h]

/-- Every used byte of an accepted descriptor is a byte of the input or a padding zero (R53, R135). -/
theorem usedBytes_le_of_validate {d : Descriptor} (h : validate d = none) :
    ∀ x ∈ usedBytes d, x ≤ 255 := by
  obtain ⟨-, -, hbytes⟩ := validateUnder_eq_none h
  intro x hx
  obtain ⟨k, -, rfl⟩ := List.mem_map.mp hx
  by_cases hk : k < d.dataBytes.length
  · rw [dataByte, List.getD_eq_getElem _ _ hk]
    exact hbytes _ (List.getElem_mem hk)
  · rw [dataByte, List.getD_eq_default _ _ (Nat.not_lt.mp hk)]
    exact Nat.zero_le _

/-- Settles O1: element `i` of `msbFirst` is bit `width - 1 - i`. -/
theorem int2BitsListsTheBitsMsbFirst : Obligations.Int2BitsListsTheBitsMsbFirst := by
  intro s value width h
  refine ⟨msbFirst width value, exec_int2bits_of_lt s h, msbFirst_length width value, fun i hi => ?_⟩
  rw [msbFirst_getElem? hi, natBit_eq]

/-- Settles O2: the refusal, and the bounds VALIDATE and the register's width give. -/
theorem int2BitsRefusesOutsideItsWidth : Obligations.Int2BitsRefusesOutsideItsWidth := by
  refine ⟨fun s _ _ h => exec_int2bits_of_ge s h, fun d hd => ?_⟩
  obtain ⟨hid, hdlc, -⟩ := validateUnder_eq_none hd
  exact ⟨by omega, by omega, fun b hb => Nat.lt_succ_of_le (usedBytes_le_of_validate hd b hb),
    (crc15 (preCrc d)).isLt⟩

/-! ### BYTES2BITS (R102) -/

theorem bytesToBits_of_gt {bytes : List Nat} (h : ∃ x ∈ bytes, 255 < x) : bytesToBits bytes = none := by
  obtain ⟨x, hx, hgt⟩ := h
  induction hx with
  | head rest =>
    have hx : 2 ^ 8 ≤ x := hgt
    simp [bytesToBits, intToBits_of_ge hx]
  | tail b _ ih => simp [bytesToBits, ih]

/-- A descriptor whose dlc is the number of its bytes uses just these bytes (R136). -/
theorem usedBytes_of_dlc_eq_length {d : Descriptor} (h : d.dlc = d.dataBytes.length) :
    usedBytes d = d.dataBytes :=
  List.ext_getElem (by simp [h]) fun k _ hk => by simp [usedBytes, dataByte, hk]

theorem concatBits_bytes_length (bytes : List Nat) :
    (concatBits (bytes.map (msbFirst 8))).length = 8 * bytes.length := by
  induction bytes with
  | nil => rfl
  | cons b rest ih => simp [ih]; omega

/-- Bit `i` of a list of bytes is bit `7 - i mod 8` of byte `i div 8` (R102): a list of bytes is the data
field of a descriptor that uses all of it. -/
theorem concatBits_bytes_getElem? (bytes : List Nat) {i : Nat} (hi : i < 8 * bytes.length) :
    (concatBits (bytes.map (msbFirst 8)))[i]? = some (natBit (bytes.getD (i / 8) 0) (7 - i % 8)) := by
  have hget := concatBits_usedBytes_getElem? ⟨0, bytes.length, bytes, false⟩ hi
  rwa [usedBytes_of_dlc_eq_length rfl] at hget

/-- Settles O3: the bits of the bytes in order, the refusal above 255, and VALIDATE's bound. -/
theorem bytes2BitsListsEachByteMsbFirst : Obligations.Bytes2BitsListsEachByteMsbFirst := by
  refine ⟨fun s bytes h => ⟨concatBits (bytes.map (msbFirst 8)), ?_, concatBits_bytes_length bytes,
    fun i hi => concatBits_bytes_getElem? bytes hi⟩, fun s bytes h => ?_,
    fun d hd => usedBytes_le_of_validate hd⟩
  · show execBytes2Bits bytes s = _
    rw [execBytes2Bits, bytesToBits_of_le h]
    rfl
  · show execBytes2Bits bytes s = _
    rw [execBytes2Bits, bytesToBits_of_gt h]

/-! ### CONCAT (R103) -/

/-- Sequence `j` stands after the ones before it: it begins what is left once they are dropped. -/
theorem concatBits_getElem? {seqs : List BitSeq} {j k : Nat} {q : BitSeq} (hq : seqs[j]? = some q)
    (hk : k < q.length) :
    (concatBits seqs)[((seqs.take j).map List.length).sum + k]? = q[k]? := by
  obtain ⟨hj, rfl⟩ := List.getElem?_eq_some_iff.mp hq
  rw [concatBits_eq_flatten, ← List.getElem?_drop, List.map_take, List.drop_sum_flatten,
    List.drop_eq_getElem_cons hj, List.flatten_cons, List.getElem?_append_left hk]

/-- Settles O4: `concatBits` is the library's `flatten`. -/
theorem concatPlacesEachSequenceInOrder : Obligations.ConcatPlacesEachSequenceInOrder := by
  intro s seqs
  refine ⟨concatBits seqs, rfl, ?_, fun j q hq k hk => concatBits_getElem? hq hk⟩
  rw [concatBits_eq_flatten, List.length_flatten]

/-! ### BITS2INT (R104) -/

theorem exec_bits2int (b : BitSeq) (s : State) :
    exec (.bits2int b) s = .next (returning s (.number (bitsToInt b))) := rfl

theorem bitsToInt_eq_sum (b : BitSeq) : bitsToInt b =
    ((List.range b.length).map fun i => (b.getD i 0).toNat * 2 ^ (b.length - 1 - i)).sum := by
  induction b with
  | nil => rfl
  | cons a rest ih =>
    simp [bitsToInt, ih, List.range_succ_eq_map, Function.comp_def, Nat.sub_sub, Nat.add_comm 1]

theorem bitsToInt_lt (b : BitSeq) : bitsToInt b < 2 ^ b.length := by
  induction b with
  | nil => decide
  | cons a rest ih =>
    have ha : a.toNat * 2 ^ rest.length ≤ 1 * 2 ^ rest.length :=
      Nat.mul_le_mul_right _ (Nat.le_of_lt_succ a.isLt)
    rw [bitsToInt, List.length_cons, Nat.pow_succ]
    omega

/-- BITS2INT of the low bits of a value is the value reduced to them. -/
theorem bitsToInt_msbFirst (width value : Nat) :
    bitsToInt (msbFirst width value) = value % 2 ^ width := by
  induction width with
  | zero => simp [msbFirst, bitsToInt, Nat.mod_one]
  | succ w ih =>
    rw [msbFirst, bitsToInt, ih, msbFirst_length, BitVec.toNat_ofNat, Nat.shiftRight_eq_div_pow,
      Nat.pow_one, Nat.mod_pow_succ, Nat.add_comm, Nat.mul_comm]

/-- `msbFirst width` reads only the low `width` bits. -/
theorem msbFirst_mul_add (width c value : Nat) :
    msbFirst width (c * 2 ^ width + value) = msbFirst width value := by
  induction width generalizing c with
  | zero => rfl
  | succ w ih =>
    have hsplit : c * 2 ^ (w + 1) = 2 * c * 2 ^ w := by ring
    have hhead : BitVec.ofNat 1 ((2 * c * 2 ^ w + value) >>> w) = BitVec.ofNat 1 (value >>> w) := by
      apply BitVec.eq_of_toNat_eq
      rw [Nat.shiftRight_eq_div_pow, Nat.mul_comm, Nat.mul_add_div (Nat.two_pow_pos w)]
      simp [Nat.shiftRight_eq_div_pow]
    rw [msbFirst, msbFirst, hsplit, hhead, ih]

theorem msbFirst_bitsToInt (b : BitSeq) : msbFirst b.length (bitsToInt b) = b := by
  induction b with
  | nil => rfl
  | cons a rest ih =>
    have hhead : (a.toNat * 2 ^ rest.length + bitsToInt rest) >>> rest.length = a.toNat := by
      rw [Nat.shiftRight_eq_div_pow, Nat.mul_comm, Nat.mul_add_div (Nat.two_pow_pos _),
        Nat.div_eq_of_lt (bitsToInt_lt rest), Nat.add_zero]
    rw [List.length_cons, msbFirst, bitsToInt, hhead, msbFirst_mul_add, ih, BitVec.ofNat_toNat,
      BitVec.setWidth_eq]

/-- Settles O5: the weighted sum, and the two inverse laws of `msbFirst` and `bitsToInt`. -/
theorem bits2IntInvertsInt2Bits : Obligations.Bits2IntInvertsInt2Bits := by
  refine ⟨fun s b => ?_, fun s value width h => ?_, fun s b => ?_⟩
  · rw [exec_bits2int, bitsToInt_eq_sum]
  · refine ⟨msbFirst width value, exec_int2bits_of_lt s h, ?_⟩
    rw [exec_bits2int, bitsToInt_msbFirst, Nat.mod_eq_of_lt h]
  · refine ⟨bitsToInt b, exec_bits2int b s, ?_⟩
    rw [exec_int2bits_of_lt s (bitsToInt_lt b), msbFirst_bitsToInt]

end Sys2Proof.Machine

namespace Sys2Proof.Machine

open Claims Polynomial

/-! ### CRC.INIT and STUFF.INIT (R110, R120) -/

/-- Settles O6: the start values, and a first bit that continues no run. -/
theorem initOperationsGiveTheStartValues : Obligations.InitOperationsGiveTheStartValues :=
  ⟨fun _ => rfl, fun _ => rfl, fun _ _ => rfl⟩

/-! ### CRC.STEP (R111) -/

theorem exec_crcStep (crc : BitVec 15) (b : Bit) (s : State) :
    exec (.crcStep crc b) s = .next (returning s (.crc (crcStep crc b))) := rfl

/-- CRC.STEP without its branch: the polynomial is applied on the strength of the old top bit. -/
theorem crcStep_eq_xor (crc : BitVec 15) (b : Bit) :
    crcStep crc b =
      (crc <<< 1 ||| b.setWidth 15) ^^^ (if crc.getLsbD 14 then Config.crcPoly else 0) := by
  have htop : crc.extractLsb' 14 1 = 1 ↔ crc.getLsbD 14 = true := by
    simp [BitVec.eq_of_getLsbD_eq_iff]
  simp only [crcStep, htop]
  split <;> simp

/-- The shifted register: the input bit enters at bit 0 and the top bit is lost. -/
theorem getLsbD_shiftIn (crc : BitVec 15) (b : Bit) (i : Nat) :
    (crc <<< 1 ||| b.setWidth 15).getLsbD i =
      if i = 0 then b.getLsbD 0 else decide (i < 15) && crc.getLsbD (i - 1) := by
  cases i with
  | zero => simp
  | succ i => simp

/-- Bit `i` of the register after a step (R111). -/
theorem crcStep_getLsbD (crc : BitVec 15) (b : Bit) {i : Nat} (hi : i < 15) :
    (crcStep crc b).getLsbD i =
      ((if i = 0 then b.getLsbD 0 else crc.getLsbD (i - 1)) ^^
        (crc.getLsbD 14 && Config.crcPoly.getLsbD i)) := by
  rw [crcStep_eq_xor, BitVec.getLsbD_xor, getLsbD_shiftIn]
  cases crc.getLsbD 14 <;> simp [hi]

/-- Settles O7: the listed bits are the ones set in the polynomial constant. -/
theorem crcStepActsBitByBit : Obligations.CrcStepActsBitByBit := by
  intro s crc b
  have hset : ∀ i ∈ [3, 4, 7, 8, 10, 14],
      i < 15 ∧ i ≠ 0 ∧ Config.crcPoly.getLsbD i = true := by decide
  have hclear : ∀ i ∈ [1, 2, 5, 6, 9, 11, 12, 13],
      i < 15 ∧ i ≠ 0 ∧ Config.crcPoly.getLsbD i = false := by decide
  refine ⟨crcStep crc b, exec_crcStep crc b s, ?_, fun i hi => ?_, fun i hi => ?_⟩
  · have hpoly : Config.crcPoly.getLsbD 0 = true := rfl
    rw [crcStep_getLsbD _ _ (by decide), hpoly, if_pos rfl, Bool.and_true]
  · obtain ⟨hlt, hne, hpoly⟩ := hset i hi
    rw [crcStep_getLsbD _ _ hlt, hpoly, if_neg hne, Bool.and_true]
  · obtain ⟨hlt, hne, hpoly⟩ := hclear i hi
    rw [crcStep_getLsbD _ _ hlt, hpoly, if_neg hne, Bool.and_false, Bool.xor_false]

/-! ### CRC15 as the fold of CRC.STEP (R112) -/

theorem exec_crc15 (bits : BitSeq) (s : State) :
    exec (.crc15 bits) s = .next (returning s (.crc (crc15 bits))) := rfl

/-- Settles O8: the function is `crc15`, and `crc15_snoc` its recursion. -/
theorem crc15RunsCrcStepOverTheBits : Obligations.Crc15RunsCrcStepOverTheBits := by
  refine ⟨crc15, fun s bits => exec_crc15 bits s, crc15_nil, fun s bits b => ?_⟩
  rw [crc15_snoc]
  exact exec_crcStep (crc15 bits) b s

/-! ### Bit sequences as polynomials over GF(2) (R113) -/

/-- The polynomial of a bit sequence, the first bit at the highest power (R113). -/
noncomputable def bitsPoly (bits : BitSeq) : Polynomial (ZMod 2) :=
  ∑ i : Fin bits.length, C ((bits.get i).toNat : ZMod 2) * X ^ (bits.length - 1 - i.val)

@[simp] theorem bitsPoly_nil : bitsPoly [] = 0 := rfl

@[simp] theorem bitsPoly_cons (b : Bit) (rest : BitSeq) :
    bitsPoly (b :: rest) = C (b.toNat : ZMod 2) * X ^ rest.length + bitsPoly rest := by
  simp [bitsPoly, Fin.sum_univ_succ, Nat.sub_sub, Nat.add_comm 1]

theorem bitsPoly_append (a b : BitSeq) :
    bitsPoly (a ++ b) = bitsPoly a * X ^ b.length + bitsPoly b := by
  induction a with
  | nil => simp
  | cons x a ih =>
    rw [List.cons_append, bitsPoly_cons, bitsPoly_cons, ih, List.length_append, pow_add]
    ring

theorem bitsPoly_snoc (bits : BitSeq) (b : Bit) :
    bitsPoly (bits ++ [b]) = bitsPoly bits * X + C (b.toNat : ZMod 2) := by
  simp [bitsPoly_append]

theorem bitsPoly_replicate_zero (n : Nat) : bitsPoly (List.replicate n 0) = 0 := by
  induction n with
  | zero => rfl
  | succ n ih =>
    rw [List.replicate_succ, bitsPoly_cons, ih]
    simp

/-- Over GF(2) the exclusive or of two bits is their sum. -/
theorem natCast_xor (a b : Bit) : ((a ^^^ b).toNat : ZMod 2) = a.toNat + b.toNat := by
  revert a b; decide

theorem bitsPoly_zipWith_xor {a b : BitSeq} (h : a.length = b.length) :
    bitsPoly (List.zipWith (· ^^^ ·) a b) = bitsPoly a + bitsPoly b := by
  induction a generalizing b with
  | nil => simp [List.length_eq_zero_iff.mp h.symm]
  | cons x a ih =>
    cases b with
    | nil => cases h
    | cons y b =>
      have hlen : a.length = b.length := Nat.succ.inj h
      rw [List.zipWith_cons_cons, bitsPoly_cons, bitsPoly_cons, bitsPoly_cons, ih hlen,
        List.length_zipWith, ← hlen, Nat.min_self, natCast_xor, C_add]
      ring

/-- The coefficients of the polynomial of a sequence are the bits of its value (R104, R113). -/
theorem bitsPoly_coeff (bits : BitSeq) (n : Nat) :
    (bitsPoly bits).coeff n = (((bitsToInt bits).testBit n).toNat : ZMod 2) := by
  induction bits with
  | nil => simp [bitsToInt]
  | cons b rest ih =>
    have hbit (k : Nat) : (b.toNat.testBit k).toNat = if k = 0 then b.toNat else 0 := by
      rw [BitVec.testBit_toNat]
      cases k with
      | zero => revert b; decide
      | succ k =>
        rw [BitVec.getLsbD_of_ge _ _ (Nat.le_add_left 1 k)]
        rfl
    rw [bitsPoly_cons, coeff_add, coeff_C_mul_X_pow, ih, bitsToInt, Nat.mul_comm,
      Nat.testBit_two_pow_mul_add _ (bitsToInt_lt rest)]
    by_cases hn : n < rest.length
    · simp [hn, hn.ne]
    · have hge := Nat.not_lt.mp hn
      have hrest : (bitsToInt rest).testBit n = false :=
        Nat.testBit_lt_two_pow ((bitsToInt_lt rest).trans_le (Nat.pow_le_pow_right two_pos hge))
      have heq : n = rest.length ↔ n - rest.length = 0 := by omega
      simp [hn, hrest, hbit, heq]

theorem bitsPoly_degree_lt (bits : BitSeq) : (bitsPoly bits).degree < bits.length := by
  refine (degree_lt_iff_coeff_zero _ _).mpr fun n hn => ?_
  have hlt := (bitsToInt_lt bits).trans_le (Nat.pow_le_pow_right two_pos hn)
  rw [bitsPoly_coeff, Nat.testBit_lt_two_pow hlt]
  rfl

theorem bitsToInt_eq_of_bitsPoly_eq {a b : BitSeq} (h : bitsPoly a = bitsPoly b) :
    bitsToInt a = bitsToInt b := by
  refine Nat.eq_of_testBit_eq fun n => ?_
  have hinj : ∀ x y : Bool, (x.toNat : ZMod 2) = y.toNat → x = y := by decide
  exact hinj _ _ (by rw [← bitsPoly_coeff, ← bitsPoly_coeff, h])

/-! ### The CRC register as a polynomial (R113, R114) -/

theorem crcBits_length (c : BitVec 15) : (crcBits c).length = 15 := by simp [crcBits]

theorem crcBits_eq_msbFirst (c : BitVec 15) : crcBits c = msbFirst 15 c.toNat := by
  refine List.ext_getElem? fun i => ?_
  by_cases hi : i < 15
  · rw [msbFirst_getElem? hi, ← natBit_eq, natBit_toNat]
    simp [crcBits, hi]
  · rw [List.getElem?_eq_none (by simpa [crcBits] using hi),
      List.getElem?_eq_none (by simpa using hi)]

theorem bitsToInt_crcBits (c : BitVec 15) : bitsToInt (crcBits c) = c.toNat := by
  rw [crcBits_eq_msbFirst, bitsToInt_msbFirst, Nat.mod_eq_of_lt c.isLt]

/-- The polynomial whose coefficients stand in a CRC register (R113). -/
noncomputable def registerPoly (c : BitVec 15) : Polynomial (ZMod 2) := bitsPoly (crcBits c)

theorem registerPoly_coeff (c : BitVec 15) (n : Nat) :
    (registerPoly c).coeff n = ((c.getLsbD n).toNat : ZMod 2) := by
  rw [registerPoly, bitsPoly_coeff, bitsToInt_crcBits, BitVec.testBit_toNat]

theorem registerPoly_degree_lt (c : BitVec 15) : (registerPoly c).degree < 15 := by
  have h := bitsPoly_degree_lt (crcBits c)
  rwa [crcBits_length] at h

theorem registerPoly_zero : registerPoly 0 = 0 := by
  ext n
  simp [registerPoly_coeff]

theorem registerPoly_xor (a b : BitVec 15) :
    registerPoly (a ^^^ b) = registerPoly a + registerPoly b := by
  ext n
  have hxor : ∀ x y : Bool, ((x ^^ y).toNat : ZMod 2) = x.toNat + y.toNat := by decide
  rw [coeff_add, registerPoly_coeff, registerPoly_coeff, registerPoly_coeff, BitVec.getLsbD_xor, hxor]

/-- A register is determined by its polynomial. -/
theorem registerPoly_injective : Function.Injective registerPoly := by
  intro a b h
  apply BitVec.eq_of_toNat_eq
  rw [← bitsToInt_crcBits, ← bitsToInt_crcBits, bitsToInt_eq_of_bitsPoly_eq h]

/-! ### One step modulo the generator (R113) -/

/-- The generator the document names (R113). -/
noncomputable def crcGenerator : Polynomial (ZMod 2) :=
  X ^ 15 + X ^ 14 + X ^ 10 + X ^ 8 + X ^ 7 + X ^ 4 + X ^ 3 + 1

theorem crcGenerator_eq : crcGenerator = X ^ 15 + registerPoly Config.crcPoly := by
  have hbits : crcBits Config.crcPoly = [1, 0, 0, 0, 1, 0, 1, 1, 0, 0, 1, 1, 0, 0, 1] := by decide
  rw [registerPoly, hbits]
  simp [crcGenerator, add_assoc]

theorem crcGenerator_monic : crcGenerator.Monic := by
  rw [crcGenerator_eq]
  exact monic_X_pow_add (registerPoly_degree_lt _)

theorem crcGenerator_degree : crcGenerator.degree = 15 := by
  have hlt : (registerPoly Config.crcPoly).degree < (X ^ 15 : Polynomial (ZMod 2)).degree := by
    rw [degree_X_pow]
    exact registerPoly_degree_lt _
  rw [crcGenerator_eq, degree_add_eq_left_of_degree_lt hlt, degree_X_pow]
  rfl

/-- Shifting in a bit multiplies by `x` and adds the bit; the lost top bit stood for `x^15`. -/
theorem registerPoly_shiftIn (crc : BitVec 15) (b : Bit) :
    registerPoly (crc <<< 1 ||| b.setWidth 15) + C ((crc.getLsbD 14).toNat : ZMod 2) * X ^ 15 =
      registerPoly crc * X + C (b.toNat : ZMod 2) := by
  ext n
  rw [coeff_add, coeff_add, registerPoly_coeff, getLsbD_shiftIn, coeff_C_mul_X_pow, coeff_C]
  cases n with
  | zero =>
    have hb : (b.getLsbD 0).toNat = b.toNat := by revert b; decide
    rw [if_pos rfl, hb]
    simp
  | succ n =>
    rw [coeff_mul_X, registerPoly_coeff]
    rcases Nat.lt_trichotomy n 14 with hn | rfl | hn
    · have hlt : n + 1 < 15 := Nat.succ_lt_succ hn
      simp [hlt, hn.ne]
    · simp
    · simp [hn.ne', BitVec.getLsbD_of_ge crc n hn]

/-- One step maps the register polynomial `R` to `R * x + b` modulo the generator (R113). -/
theorem crcGenerator_dvd_registerPoly_crcStep (crc : BitVec 15) (b : Bit) :
    crcGenerator ∣ registerPoly crc * X + C (b.toNat : ZMod 2) - registerPoly (crcStep crc b) := by
  rw [← registerPoly_shiftIn, crcStep_eq_xor, registerPoly_xor]
  cases crc.getLsbD 14 with
  | false =>
    rw [if_neg Bool.false_ne_true, registerPoly_zero]
    simp
  | true =>
    rw [if_pos rfl, add_sub_add_left_eq_sub, CharTwo.sub_eq_add, crcGenerator_eq]
    simp

/-- What the register holds is congruent to the message modulo the generator (R113). -/
theorem crcGenerator_dvd_bitsPoly_sub_crc15 (bits : BitSeq) :
    crcGenerator ∣ bitsPoly bits - registerPoly (crc15 bits) := by
  induction bits using List.reverseRecOn with
  | nil =>
    rw [crc15_nil, registerPoly_zero]
    simp
  | append_singleton bits b ih =>
    have hstep := crcGenerator_dvd_registerPoly_crcStep (crc15 bits) b
    have hsplit : bitsPoly (bits ++ [b]) - registerPoly (crc15 (bits ++ [b])) =
        (bitsPoly bits - registerPoly (crc15 bits)) * X +
          (registerPoly (crc15 bits) * X + C (b.toNat : ZMod 2) -
            registerPoly (crcStep (crc15 bits) b)) := by
      rw [crc15_snoc, bitsPoly_snoc]
      ring
    rw [hsplit]
    exact dvd_add (ih.mul_right X) hstep

/-- CRC15 is the remainder by the generator: congruent to the message, and of degree below 15 (R113). -/
theorem registerPoly_crc15 (bits : BitSeq) :
    registerPoly (crc15 bits) = bitsPoly bits %ₘ crcGenerator := by
  have hself : registerPoly (crc15 bits) %ₘ crcGenerator = registerPoly (crc15 bits) := by
    rw [modByMonic_eq_self_iff crcGenerator_monic, crcGenerator_degree]
    exact registerPoly_degree_lt _
  have hcongr := crcGenerator_dvd_bitsPoly_sub_crc15 bits
  rw [modByMonic_eq_of_dvd_sub crcGenerator_monic hcongr, hself]

/-- Settles O9: every step keeps the register congruent to the bits read so far. -/
theorem crc15IsThePolynomialRemainder : Obligations.Crc15IsThePolynomialRemainder :=
  ⟨crcGenerator_eq, fun s bits => ⟨crc15 bits, exec_crc15 bits s, registerPoly_crc15 bits⟩⟩

/-! ### The consequences of the remainder law (R112, R113) -/

/-- No reduction can happen within fifteen bits. -/
theorem crc15_toNat_of_length_le {bits : BitSeq} (h : bits.length ≤ 15) :
    (crc15 bits).toNat = bitsToInt bits := by
  have hdeg : (bitsPoly bits).degree < crcGenerator.degree := by
    rw [crcGenerator_degree]
    exact (bitsPoly_degree_lt bits).trans_le (by exact_mod_cast h)
  rw [← bitsToInt_crcBits]
  apply bitsToInt_eq_of_bitsPoly_eq
  exact (registerPoly_crc15 bits).trans ((modByMonic_eq_self_iff crcGenerator_monic).mpr hdeg)

theorem crc15_replicate_zero_append (n : Nat) (bits : BitSeq) :
    crc15 (List.replicate n 0 ++ bits) = crc15 bits := by
  apply registerPoly_injective
  rw [registerPoly_crc15, registerPoly_crc15, bitsPoly_append, bitsPoly_replicate_zero, zero_mul,
    zero_add]

theorem crc15_zipWith_xor {a b : BitSeq} (h : a.length = b.length) :
    crc15 (List.zipWith (· ^^^ ·) a b) = crc15 a ^^^ crc15 b := by
  apply registerPoly_injective
  rw [registerPoly_xor, registerPoly_crc15, registerPoly_crc15, registerPoly_crc15,
    bitsPoly_zipWith_xor h, add_modByMonic]

/-- The message shifted by fifteen places and its remainder cancel over GF(2). -/
theorem crc15_append_crcBits (bits : BitSeq) :
    crc15 (bits ++ crcBits (crc15 (bits ++ List.replicate 15 0))) = 0 := by
  have hshift : bitsPoly (bits ++ List.replicate 15 0) = bitsPoly bits * X ^ 15 := by
    rw [bitsPoly_append, bitsPoly_replicate_zero, List.length_replicate, add_zero]
  have hdvd := crcGenerator_dvd_bitsPoly_sub_crc15 (bits ++ List.replicate 15 0)
  rw [hshift, CharTwo.sub_eq_add] at hdvd
  apply registerPoly_injective
  rw [registerPoly_zero, registerPoly_crc15, modByMonic_eq_zero_iff_dvd crcGenerator_monic,
    bitsPoly_append, crcBits_length]
  exact hdvd

/-- Settles O10: all but the one fixed sequence follow from the remainder law. -/
theorem crc15IsLinearAndSelfChecking : Obligations.Crc15IsLinearAndSelfChecking :=
  ⟨fun _ => crc15_toNat_of_length_le, crc15_replicate_zero_append, fun _ _ => crc15_zipWith_xor,
    by decide, crc15_append_crcBits⟩

end Sys2Proof.Machine

namespace Sys2Proof.Machine

open Claims

/-! ### STUFF.STEP, STUFF and DESTUFF as operations (R121, R122, R128) -/

theorem exec_stuffStep_of_le (s : State) {run : Nat} (h : run ≤ 4) (prev b : Bit) (out : BitSeq)
    (ins : List Nat) : exec (.stuffStep run prev out ins b) s =
      .next (returning s (.stuffState (stuffStep ⟨run, prev, out, ins⟩ b))) :=
  if_pos h

theorem exec_stuff (bits : BitSeq) (s : State) :
    exec (.stuff bits) s = .next (returning s (.stuffed (stuff bits))) := rfl

theorem exec_destuff (b : BitSeq) (ins : List Nat) (s : State) :
    exec (.destuff b ins) s = .next (returning s (.bits (destuff b ins))) := rfl

/-- Settles O11: the two outcomes of a step are the two branches of R121. -/
theorem stuffStepCopiesAndInserts : Obligations.StuffStepCopiesAndInserts := by
  intro s run prev b out ins hrun r
  have hr : runCount run prev b = r := rfl
  rw [exec_stuffStep_of_le s hrun]
  rcases stuffStep_cases ⟨run, prev, out, ins⟩ b with ⟨h5, e⟩ | ⟨hne, e⟩ <;> rw [e]
  · rw [if_pos (hr ▸ h5)]
    simp
  · rw [if_neg (hr ▸ hne)]
    rfl

/-- Settles O13: the function is `stuffRun`, and `stuffRun_snoc` its recursion. -/
theorem stuffRunsStuffStepOverTheBits : Obligations.StuffRunsStuffStepOverTheBits := by
  refine ⟨stuffRun, fun s bits => exec_stuff bits s, stuffRun_nil, fun s bits b =>
    ⟨stuffRun_run_le bits, ?_⟩⟩
  rw [stuffRun_snoc]
  exact exec_stuffStep_of_le s (stuffRun_run_le bits) _ b _ _

/-! ### The first bits of the input (R125) -/

theorem stuffStep_ins_isPrefix (st : StuffState) (b : Bit) : st.ins <+: (stuffStep st b).ins := by
  rcases stuffStep_cases st b with ⟨-, e⟩ | ⟨-, e⟩ <;> rw [e]
  exact List.prefix_append _ _

theorem stuffRun_ins_isPrefix_append (u v : BitSeq) :
    (stuffRun u).ins <+: (stuffRun (u ++ v)).ins := by
  induction v using List.reverseRecOn with
  | nil => rw [List.append_nil]
  | append_singleton v b ih =>
    rw [← List.append_assoc, stuffRun_snoc]
    exact ih.trans (stuffStep_ins_isPrefix _ b)

theorem runCount_pos (run : Nat) (prev b : Bit) : 0 < runCount run prev b := by
  unfold runCount; split <;> omega

/-- A counter at 0 after a step means that the step inserted a bit, its last one (R121, R125). -/
theorem stuffStep_ins_getLast? {st : StuffState} {b : Bit} (h : (stuffStep st b).run = 0) :
    (stuffStep st b).ins.getLast? = some ((stuffStep st b).out.length - 1) := by
  rcases stuffStep_cases st b with ⟨-, e⟩ | ⟨-, e⟩ <;> rw [e] at h ⊢
  · simp
  · exact absurd h (runCount_pos _ _ _).ne'

/-- Settles O16: later steps only append to both lists. -/
theorem stuffOfAPrefixIsAPrefix : Obligations.StuffOfAPrefixIsAPrefix := by
  intro bits j hj
  refine ⟨stuffRun_take_out_isPrefix bits j, ?_, fun hpos hrun => ?_⟩
  · have := stuffRun_ins_isPrefix_append (bits.take j) (bits.drop j)
    rwa [List.take_append_drop] at this
  · obtain ⟨k, rfl⟩ := Nat.exists_eq_succ_of_ne_zero hpos.ne'
    have hnext := stuffRun_take_succ (List.getElem?_eq_getElem hj)
    rw [Nat.succ_eq_add_one, hnext] at hrun
    show (stuffRun _).ins.getLast? = some ((stuffRun _).out.length - 1)
    rw [hnext]
    exact stuffStep_ins_getLast? hrun

/-! ### Removing the inserted bits (R124, R128) -/

theorem dropPositions_eq_filter (ins : List Nat) (i : Nat) (b : BitSeq) :
    dropPositions ins i b = ((b.zipIdx i).filter fun x => x.2 ∉ ins).map (·.1) := by
  induction b generalizing i with
  | nil => rfl
  | cons b rest ih =>
    by_cases h : i ∈ ins <;> simp [dropPositions, h, ih]

theorem destuff_eq_filter (b : BitSeq) (ins : List Nat) :
    destuff b ins = (b.zipIdx.filter fun x => x.2 ∉ ins).map (·.1) := dropPositions_eq_filter ins 0 b

theorem dropPositions_append (ins : List Nat) (i : Nat) (a b : BitSeq) :
    dropPositions ins i (a ++ b) = dropPositions ins i a ++ dropPositions ins (i + a.length) b := by
  simp [dropPositions_eq_filter, List.zipIdx_append]

/-- Only positions inside the sequence matter. -/
theorem dropPositions_congr {ins ins' : List Nat} {i : Nat} {b : BitSeq}
    (h : ∀ p, p < i + b.length → (p ∈ ins ↔ p ∈ ins')) :
    dropPositions ins i b = dropPositions ins' i b := by
  rw [dropPositions_eq_filter, dropPositions_eq_filter]
  refine congrArg _ (List.filter_congr fun x hx => ?_)
  have hlt : x.2 < i + b.length := (List.mem_zipIdx hx).2.1
  simp [h x.2 hlt]

/-- One step adds its input bit to the destuffed output: the inserted bit is dropped again (R121). -/
theorem destuff_stuffStep {st : StuffState} (h : ∀ p ∈ st.ins, p < st.out.length) (b : Bit) :
    destuff (stuffStep st b).out (stuffStep st b).ins = destuff st.out st.ins ++ [b] := by
  have hfresh (m : Nat) (hm : st.out.length ≤ m) : m ∉ st.ins := fun hp => absurd (h m hp) hm.not_gt
  have hold : dropPositions (stuffStep st b).ins 0 st.out = destuff st.out st.ins :=
    dropPositions_congr fun p hp => (stuffStep_extends st b).2 p (by simpa using hp)
  rw [← hold]
  rcases stuffStep_cases st b with ⟨-, e⟩ | ⟨-, e⟩ <;> rw [e]
  · simp [destuff, List.append_assoc, dropPositions_append, dropPositions, hfresh]
  · simp [destuff, dropPositions_append, dropPositions, hfresh]

/-- The law of R128. -/
theorem destuff_stuff (bits : BitSeq) :
    destuff (stuff bits).stuffedBits (stuff bits).insertedPositions = bits := by
  show destuff (stuffRun bits).out (stuffRun bits).ins = bits
  induction bits using List.reverseRecOn with
  | nil => rfl
  | append_singleton u b ih => rw [stuffRun_snoc, destuff_stuffStep fun _ => stuffRun_ins_lt, ih]

/-- Settles O18: DESTUFF is the filter of R128, and each step of STUFF adds one bit that it keeps. -/
theorem destuffUndoesStuff : Obligations.DestuffUndoesStuff := by
  refine ⟨fun s b ins => ?_, fun s bits => ?_⟩
  · rw [exec_destuff, destuff_eq_filter]
  · rw [exec_destuff, destuff_stuff]

/-! ### The closed form over maximal runs (R123) -/

/-- A bit that starts a run gets the count 1 (R121). -/
theorem runCount_eq_one {run : Nat} {prev b : Bit} (h : run = 0 ∨ b ≠ prev) :
    runCount run prev b = 1 :=
  if_neg fun hr => h.elim hr.1 (absurd hr.2)

/-- The same bit again gets the next count (R121). -/
theorem runCount_runCount (run : Nat) (prev b : Bit) :
    runCount (runCount run prev b) b b = runCount run prev b + 1 :=
  if_pos ⟨(runCount_pos run prev b).ne', rfl⟩

theorem stuffRun_append_replicate_succ (u : BitSeq) (n : Nat) (b : Bit) :
    stuffRun (u ++ List.replicate (n + 1) b) = stuffStep (stuffRun (u ++ List.replicate n b)) b := by
  rw [List.replicate_succ', ← List.append_assoc, stuffRun_snoc]

section StartOfRun

variable {u : BitSeq} {b : Bit} (hstart : runCount (stuffRun u).run (stuffRun u).prev b = 1)
include hstart

/-- Within a run the count of the next bit goes 1, 2, 3, 4, 5 and again from 1 (R121, R123). -/
theorem runCount_stuffRun_append_replicate (n : Nat) :
    runCount (stuffRun (u ++ List.replicate n b)).run (stuffRun (u ++ List.replicate n b)).prev b =
      n % 5 + 1 := by
  induction n with
  | zero => simpa using hstart
  | succ n ih =>
    rw [stuffRun_append_replicate_succ]
    rcases stuffStep_cases (stuffRun (u ++ List.replicate n b)) b with ⟨h5, e⟩ | ⟨hne, e⟩ <;> rw [e]
    · rw [runCount_eq_one (.inl rfl)]
      omega
    · rw [runCount_runCount]
      omega

/-- Stuffing one maximal run (R123). -/
theorem stuffRun_append_replicate (n : Nat) :
    (stuffRun (u ++ List.replicate n b)).out = (stuffRun u).out ++ stuffedRun (List.replicate n b) ∧
    (stuffRun (u ++ List.replicate n b)).ins.length = (stuffRun u).ins.length + n / 5 := by
  induction n with
  | zero => simp [stuffedRun]
  | succ n ih =>
    obtain ⟨hout, hins⟩ := ih
    have hcount := runCount_stuffRun_append_replicate hstart n
    have hrun : stuffedRun (List.replicate (n + 1) b) = stuffedRun (List.replicate n b) ++
        if (n + 1) % 5 = 0 then [b, ~~~b] else [b] := by
      simp [stuffedRun, List.replicate_succ', List.zipIdx_append]
    rw [stuffRun_append_replicate_succ, hrun]
    rcases stuffStep_cases (stuffRun (u ++ List.replicate n b)) b with ⟨h5, e⟩ | ⟨hne, e⟩ <;> rw [e]
    · rw [if_pos (by omega), hout]
      simp only [List.length_append, List.length_singleton, List.append_assoc, List.singleton_append,
        true_and]
      omega
    · rw [if_neg (by omega), hout]
      simp only [List.append_assoc, true_and]
      omega

end StartOfRun

/-- STUFF over any sequence of runs of which no two neighbours have the same value (R123). -/
theorem stuffRun_flatten_runs {runs : List BitSeq}
    (hconst : ∀ r ∈ runs, ∃ b n, r = List.replicate (n + 1) b)
    (hchange : runs.IsChain fun r r' => ∃ hr hr', (r.getLast hr == r'.head hr') = false) :
    (stuffRun runs.flatten).out = (runs.map stuffedRun).flatten ∧
    (stuffRun runs.flatten).ins.length = (runs.map (·.length / 5)).sum := by
  induction runs using List.reverseRecOn with
  | nil => exact ⟨rfl, rfl⟩
  | append_singleton runs r ih =>
    obtain ⟨hchain, -, hlast⟩ := List.isChain_append.mp hchange
    obtain ⟨hout, hins⟩ := ih (fun r hr => hconst r (by simp [hr])) hchain
    obtain ⟨b, n, rfl⟩ := hconst r (by simp)
    have hstart : runCount (stuffRun runs.flatten).run (stuffRun runs.flatten).prev b = 1 := by
      apply runCount_eq_one
      cases runs using List.reverseRecOn with
      | nil => exact .inl rfl
      | append_singleton runs r' =>
        obtain ⟨a, m, rfl⟩ := hconst r' (by simp)
        obtain ⟨_, _, hne⟩ := hlast _ List.getLast?_concat _ rfl
        refine .inr fun hb => ?_
        rw [List.flatten_concat, stuffRun_append_replicate_succ, stuffStep_prev] at hb
        simp [hb] at hne
    obtain ⟨hout', hins'⟩ := stuffRun_append_replicate hstart (n + 1)
    simp [hout', hins', hout, hins]

theorem eq_replicate_of_mem_splitBy {bits r : BitSeq} (h : r ∈ bits.splitBy (· == ·)) :
    ∃ b n, r = List.replicate (n + 1) b := by
  have hchain := List.isChain_of_mem_splitBy h
  cases r with
  | nil => exact absurd h (List.nil_notMem_splitBy _ _)
  | cons b rest =>
    refine ⟨b, rest.length, ?_⟩
    rw [List.replicate_succ, ← List.isChain_cons_eq_iff_eq_replicate.mp (by simpa using hchain)]

/-- Settles O14: the maximal runs are such a sequence of runs. -/
theorem stuffHasTheClosedFormOverRuns : Obligations.StuffHasTheClosedFormOverRuns := by
  intro s bits
  obtain ⟨hout, hins⟩ := stuffRun_flatten_runs (fun _ => eq_replicate_of_mem_splitBy)
    (List.isChain_getLast_head_splitBy (· == ·) bits)
  rw [List.flatten_splitBy] at hout hins
  obtain ⟨-, -, hlen, hbudget⟩ := stuffRun_bounds bits
  refine ⟨stuff bits, exec_stuff bits s, hout, hins, hlen, ?_⟩
  show (stuffRun bits).ins.length ≤ _
  omega

/-! ### What the counter counts (R121, R124, R126) -/

/-- The positions from `lo` up to `hi` hold copied bits, all of them `b`. -/
def CopiesOf (b : Bit) (S : BitSeq) (I : List Nat) (lo hi : Nat) : Prop :=
  ∀ q, lo ≤ q → q < hi → S[q]? = some b ∧ q ∉ I

/-- The bits of the first `k` bits' output stay where they are (R125). -/
theorem stuffRun_take_getElem? {u : BitSeq} {k q : Nat} (h : q < spos u k) :
    (stuffRun (u.take k)).out[q]? = (stuffRun u).out[q]? := by
  obtain ⟨t, ht⟩ := stuffRun_take_out_isPrefix u k
  rw [← ht]
  exact (List.getElem?_append_left h).symm

theorem copiesOf_take_iff {u : BitSeq} {k : Nat} {b : Bit} {lo hi : Nat} (h : hi ≤ spos u k) :
    CopiesOf b (stuffRun (u.take k)).out (stuffRun (u.take k)).ins lo hi ↔
      CopiesOf b (stuff u).stuffedBits (stuff u).insertedPositions lo hi := by
  refine forall₃_congr fun q _ hq => ?_
  rw [stuffRun_take_getElem? (hq.trans_le h), ← mem_stuffRun_ins_iff_take (hq.trans_le h)]
  rfl

/-- Copies that reach up to a newly copied bit `c`. -/
theorem copiesOf_concat_iff {b c : Bit} {S : BitSeq} {I : List Nat} {lo : Nat} (hlo : lo ≤ S.length)
    (hfresh : S.length ∉ I) :
    CopiesOf b (S ++ [c]) I lo (S.length + 1) ↔ c = b ∧ CopiesOf b S I lo S.length := by
  constructor
  · intro h
    refine ⟨by simpa using (h S.length hlo (Nat.lt_succ_self _)).1, fun q hq hlt => ?_⟩
    rw [← List.getElem?_append_left hlt]
    exact h q hq (Nat.lt_succ_of_lt hlt)
  · rintro ⟨rfl, h⟩ q hq hlt
    rcases Nat.lt_succ_iff_lt_or_eq.mp hlt with hlt | rfl
    · rw [List.getElem?_append_left hlt]
      exact h q hq hlt
    · exact ⟨by simp, hfresh⟩

/-- What the count of a coming bit `b` means on the output: it is one more than the number of copies of
`b`, none of them inserted, at the output's end (R121). -/
theorem lt_runCount_stuffRun_iff (u : BitSeq) (b : Bit) (n : Nat) :
    n < runCount (stuffRun u).run (stuffRun u).prev b ↔ n ≤ (stuffRun u).out.length ∧
      CopiesOf b (stuffRun u).out (stuffRun u).ins ((stuffRun u).out.length - n)
        (stuffRun u).out.length := by
  induction u using List.reverseRecOn generalizing n with
  | nil => simp [stuffInit, runCount, CopiesOf]
  | append_singleton u c ih =>
    cases n with
    | zero => exact iff_of_true (runCount_pos _ _ _) ⟨Nat.zero_le _, fun q hq hlt => by omega⟩
    | succ m =>
      rw [stuffRun_snoc]
      rcases stuffStep_cases (stuffRun u) c with ⟨-, e⟩ | ⟨-, e⟩ <;> rw [e]
      · -- An inserted bit stands at the end.
        refine iff_of_false (by rw [runCount_eq_one (.inl rfl)]; omega) fun ⟨_, h⟩ => ?_
        exact (h ((stuffRun u).out.length + 1) (by simp) (by simp)).2 (by simp)
      · have hfresh : (stuffRun u).out.length ∉ (stuffRun u).ins := fun h =>
          Nat.lt_irrefl _ (stuffRun_ins_lt h)
        simp only [List.length_append, List.length_singleton, Nat.add_sub_add_right,
          Nat.add_le_add_iff_right, copiesOf_concat_iff (Nat.sub_le _ _) hfresh]
        by_cases hc : c = b
        · subst hc
          rw [runCount_runCount, Nat.add_lt_add_iff_right, ih m]
          simp
        · refine iff_of_false ?_ fun h => hc h.2.1
          rw [runCount_eq_one (.inr (Ne.symm hc))]
          omega

/-! ### The positions of the output (R124) -/

/-- Each position of the output holds the copy of an input bit or the bit inserted after it (R121). -/
theorem stuffed_position_cases {u : BitSeq} {j p : Nat} (hj : j ≤ u.length) (hp : p < spos u j) :
    ∃ k b, u[k]? = some b ∧ (p = spos u k ∨
      p = spos u k + 1 ∧ runCount (stuffRun (u.take k)).run (stuffRun (u.take k)).prev b = 5) := by
  induction j with
  | zero => exact absurd hp (by simp)
  | succ j ih =>
    by_cases hlt : p < spos u j
    · exact ih (Nat.le_of_succ_le hj) hlt
    have hbit : u[j]? = some u[j] := List.getElem?_eq_getElem hj
    refine ⟨j, u[j], hbit, ?_⟩
    rw [spos_eq, stuffRun_take_succ hbit] at hp
    rw [spos_eq] at hlt ⊢
    rcases stuffStep_cases (stuffRun (u.take j)) u[j] with ⟨h5, e⟩ | ⟨-, e⟩ <;> rw [e] at hp <;>
      simp only [List.length_append, List.length_singleton] at hp
    · omega
    · omega

theorem lt_spos_of_mem {u : BitSeq} {p : Nat} (h : p ∈ (stuff u).insertedPositions) :
    p < spos u u.length := by
  rw [spos_length]
  exact stuffRun_ins_lt h

/-- An inserted bit stands after five copies of its complement (R124). -/
theorem copiesOf_before_inserted {u : BitSeq} {p : Nat} (h : p ∈ (stuff u).insertedPositions) :
    ∃ b, 5 ≤ p ∧ (stuff u).stuffedBits[p]? = some (~~~b) ∧
      CopiesOf b (stuff u).stuffedBits (stuff u).insertedPositions (p - 5) p := by
  obtain ⟨k, b, hk, hp⟩ := stuffed_position_cases le_rfl (lt_spos_of_mem h)
  obtain ⟨hcopy, hfresh, -⟩ := stuff_at_copied hk
  obtain ⟨rfl, h5⟩ := hp.resolve_left fun he => hfresh (he ▸ h)
  obtain ⟨hbit, -, -⟩ := stuff_at_inserted hk h5
  obtain ⟨hle, hbefore⟩ := (lt_runCount_stuffRun_iff (u.take k) b 4).mp (by omega)
  rw [← spos_eq] at hle hbefore
  rw [copiesOf_take_iff le_rfl] at hbefore
  refine ⟨b, by omega, hbit, fun q hq hlt => ?_⟩
  rcases Nat.lt_succ_iff_lt_or_eq.mp hlt with hlt | rfl
  · exact hbefore q (by omega) hlt
  · exact ⟨hcopy, hfresh⟩

theorem stuffRun_ins_pairwise (u : BitSeq) : (stuffRun u).ins.Pairwise (· < ·) := by
  induction u using List.reverseRecOn with
  | nil => exact .nil
  | append_singleton u b ih =>
    rw [stuffRun_snoc]
    rcases stuffStep_cases (stuffRun u) b with ⟨-, e⟩ | ⟨-, e⟩ <;> rw [e]
    · refine List.pairwise_append.mpr ⟨ih, List.pairwise_singleton _ _, fun p hp q hq => ?_⟩
      rw [List.mem_singleton.mp hq, List.length_append]
      exact (stuffRun_ins_lt hp).trans (Nat.lt_succ_self _)
    · exact ih

/-- Settles O15: the five copies before an inserted bit keep the next insertion six positions away. -/
theorem insertedPositionsFollowFiveEqualCopies :
    Obligations.InsertedPositionsFollowFiveEqualCopies := by
  intro bits S I
  refine ⟨stuffRun_ins_pairwise bits, fun p hp => ?_, fun p hp q hq hlt => ?_, ?_⟩
  · obtain ⟨b, h5, hbit, hcopies⟩ := copiesOf_before_inserted hp
    obtain ⟨hprev, -⟩ := hcopies (p - 1) (by omega) (by omega)
    refine ⟨h5, stuffRun_ins_lt hp, by rw [hprev]; exact hbit, fun q hlo hhi => ?_⟩
    rw [hprev]
    exact hcopies q hlo hhi
  · obtain ⟨b, h5, -, hcopies⟩ := copiesOf_before_inserted hq
    by_contra hnear
    exact (hcopies p (by omega) hlt).2 hp
  · rw [← destuff_eq_filter]
    exact destuff_stuff bits

/-! ### Runs on the wire (R126) -/

theorem bit_ne_not (b : Bit) : b ≠ ~~~b := by revert b; decide

/-- A position whose bit equals the one before it is a copy (R124, R126). -/
theorem not_mem_of_getElem?_eq {u : BitSeq} {p : Nat} {b : Bit}
    (hprev : (stuff u).stuffedBits[p]? = some b) (h : (stuff u).stuffedBits[p + 1]? = some b) :
    p + 1 ∉ (stuff u).insertedPositions := by
  intro hmem
  obtain ⟨c, -, hbit, hcopies⟩ := copiesOf_before_inserted hmem
  obtain ⟨hc, -⟩ := hcopies p (by omega) (Nat.lt_succ_self p)
  obtain rfl : b = c := Option.some.inj (hprev.symm.trans hc)
  exact bit_ne_not b (Option.some.inj (h.symm.trans hbit))

/-- Six equal bits in the output are an inserted bit and five copies, with an insertion after them (R126). -/
theorem six_equal_bits {u : BitSeq} {i : Nat} {b : Bit}
    (h : ∀ j, j < 6 → (stuff u).stuffedBits[i + j]? = some b) :
    i ∈ (stuff u).insertedPositions ∧
    (∀ j, 1 ≤ j → j < 6 → i + j ∉ (stuff u).insertedPositions) ∧
    i + 6 ∈ (stuff u).insertedPositions ∧ (stuff u).stuffedBits[i + 6]? = some (~~~b) := by
  have hcopied (j : Nat) (h1 : 1 ≤ j) (h6 : j < 6) : i + j ∉ (stuff u).insertedPositions := by
    obtain ⟨m, rfl⟩ := Nat.exists_eq_add_of_le' h1
    exact not_mem_of_getElem?_eq (h m (by omega)) (h (m + 1) h6)
  have hcopies : CopiesOf b (stuff u).stuffedBits (stuff u).insertedPositions (i + 1) (i + 5) := by
    intro q hlo hhi
    obtain ⟨j, rfl⟩ := Nat.exists_eq_add_of_le (Nat.le_of_succ_le hlo)
    exact ⟨h j (by omega), hcopied j (by omega) (by omega)⟩
  have hlast : i + 5 < spos u u.length := by
    rw [← stuff_length]
    exact (List.getElem?_eq_some_iff.mp (h 5 (by decide))).1
  obtain ⟨k, c, hk, hp⟩ := stuffed_position_cases le_rfl hlast
  -- Position `i + 5` is the copy of input bit `k`, at which the count is 5 at most.
  have hpos : i + 5 = spos u k := hp.resolve_right fun ⟨he, h5⟩ =>
    hcopied 5 (by decide) (by decide) (he ▸ (stuff_at_inserted hk h5).2.1)
  obtain ⟨hbit, -, -⟩ := stuff_at_copied hk
  obtain rfl : b = c := Option.some.inj ((h 5 (by decide)).symm.trans (hpos ▸ hbit))
  have hle := runCount_le (stuffRun_run_le (u.take k)) (stuffRun (u.take k)).prev b
  have hcount (n : Nat) := lt_runCount_stuffRun_iff (u.take k) b n
  simp only [← spos_eq, ← hpos] at hcount
  simp only [copiesOf_take_iff hpos.le] at hcount
  have hfive := (hcount 4).mpr ⟨by omega, hcopies⟩
  obtain ⟨hbit', hmem, -⟩ := stuff_at_inserted hk (by omega)
  rw [← hpos] at hbit' hmem
  refine ⟨by_contra fun hi => ?_, hcopied, hmem, hbit'⟩
  have hsix := (hcount 5).mpr ⟨by omega, fun q hlo hhi => ?_⟩
  · omega
  · rcases (show i ≤ q by omega).eq_or_lt with rfl | hlt
    · exact ⟨h 0 (by decide), hi⟩
    · exact hcopies q hlt hhi

theorem take_add_of_equal {u : BitSeq} {j n : Nat} {b : Bit} (h : ∀ i, i < n → u[j + i]? = some b) :
    u.take (j + n) = u.take j ++ List.replicate n b := by
  induction n with
  | zero => simp
  | succ n ih =>
    rw [← Nat.add_assoc, take_succ_of_getElem? (h n (Nat.lt_succ_self n)),
      ih fun i hi => h i (Nat.lt_succ_of_lt hi), List.append_assoc, List.replicate_succ']

/-- The fifth bit of a run of the input makes an insertion due (R126). -/
theorem runCount_stuffRun_take_of_run {u : BitSeq} {j : Nat} {b : Bit}
    (h : ∀ i, i < 5 → u[j + i]? = some b) (hstart : j = 0 ∨ u[j - 1]? ≠ u[j]?) :
    runCount (stuffRun (u.take (j + 4))).run (stuffRun (u.take (j + 4))).prev b = 5 := by
  have hfirst : u[j]? = some b := h 0 (by decide)
  have hone : runCount (stuffRun (u.take j)).run (stuffRun (u.take j)).prev b = 1 := by
    apply runCount_eq_one
    cases j with
    | zero => exact .inl rfl
    | succ j =>
      have hne : u[j]? ≠ u[j + 1]? := hstart.resolve_left (Nat.succ_ne_zero j)
      have hlt : j < u.length := Nat.lt_of_succ_lt (List.getElem?_eq_some_iff.mp hfirst).1
      have hprev : u[j]? = some u[j] := List.getElem?_eq_getElem hlt
      rw [stuffRun_take_succ_prev hprev]
      refine .inr fun hb => hne ?_
      rw [hprev, hfirst, hb]
  rw [take_add_of_equal fun i hi => h i (by omega)]
  exact runCount_stuffRun_append_replicate hone 4

/-- Settles O17: the clauses on runs of seven and on runs that begin with a copy follow from the one on
six equal bits. -/
theorem stuffedRunsHaveAtMostSixBits : Obligations.StuffedRunsHaveAtMostSixBits := by
  intro bits S I
  have hsix (i : Nat) (hi : i + 6 ≤ S.length) (h : ∀ j, j < 6 → S[i + j]? = S[i]?) :
      i ∈ I ∧ (∀ j, 1 ≤ j → j < 6 → i + j ∉ I) ∧ i + 6 ∈ I ∧ S[i + 6]? = (S[i]?).map (~~~ ·) := by
    have hbit : S[i]? = some S[i] := List.getElem?_eq_getElem (by omega)
    rw [hbit] at h ⊢
    exact six_equal_bits h
  refine ⟨fun i hi h => ?_, hsix, fun i hcopy _ hi h => hcopy (hsix i hi h).1,
    fun j hj h hstart _ => ?_⟩
  · obtain ⟨-, -, -, hnot⟩ := hsix i (by omega) fun j hj => h j (by omega)
    have hbit : S[i]? = some S[i] := List.getElem?_eq_getElem (by omega)
    rw [h 6 (by decide), hbit] at hnot
    exact bit_ne_not _ (Option.some.inj hnot)
  · have hbit : bits[j]? = some bits[j] := List.getElem?_eq_getElem (by omega)
    rw [hbit] at h ⊢
    have hk := h 4 (by decide)
    obtain ⟨hins, hmem, hlen⟩ :=
      stuff_at_inserted hk (runCount_stuffRun_take_of_run h hstart)
    obtain ⟨hcopy, -, -⟩ := stuff_at_copied hk
    intro p
    have hp : p = spos bits (j + 4) + 1 := by
      show spos bits (j + 4 + 1) - 1 = _
      omega
    rw [hp]
    exact ⟨hmem, hcopy, hins⟩

end Sys2Proof.Machine

namespace Sys2Proof.Machine

open Claims

/-! ### Stuffed positions (R141) -/

/-- Nothing is inserted after the first bit (R121, R141). -/
theorem spos_one {u : BitSeq} (h : u ≠ []) : spos u 1 = 1 := by
  obtain ⟨b, rest, rfl⟩ := List.exists_cons_of_ne_nil h
  rfl

/-- The next bit of `u` takes one stuffed position, or two with an insertion (R121, R141). -/
theorem spos_succ {u : BitSeq} {k : Nat} (h : k < u.length) :
    spos u (k + 1) = spos u k + 1 ∨ spos u (k + 1) = spos u k + 2 := by
  rw [spos_eq, spos_eq, stuffRun_take_succ (List.getElem?_eq_getElem h)]
  exact stuffStep_out_length _ _

theorem spos_lt_spos {u : BitSeq} {j k : Nat} (hjk : j < k) (hk : k ≤ u.length) :
    spos u j < spos u k := by
  have hstep := spos_succ (hjk.trans_le hk)
  have hrest : spos u (j + 1) ≤ spos u k := spos_mono u hjk
  omega

/-- Each insertion pushes the bits after it one position on (R141). -/
theorem spos_eq_add_take_ins {u : BitSeq} {k : Nat} (h : k ≤ u.length) :
    spos u k = k + (stuffRun (u.take k)).ins.length := by
  obtain ⟨-, -, hlen, -⟩ := stuffRun_bounds (u.take k)
  rwa [List.length_take_of_le h] at hlen

/-- The insertions that the first `k` bits trigger are those below `spos u k` (R125, R141). -/
theorem filter_ins_lt_spos (u : BitSeq) (k : Nat) :
    (stuffRun u).ins.filter (· < spos u k) = (stuffRun (u.take k)).ins := by
  refine ((stuffRun_ins_pairwise u).filter _).eq_of_mem_iff (stuffRun_ins_pairwise _) fun p => ?_
  rw [List.mem_filter, decide_eq_true_iff]
  constructor
  · rintro ⟨hp, hlt⟩
    exact (mem_stuffRun_ins_iff_take hlt).mp hp
  · intro hp
    have hlt := stuffRun_ins_lt hp
    exact ⟨(mem_stuffRun_ins_iff_take hlt).mpr hp, hlt⟩

/-- Settles O19: one step of STUFF per bit, and one more position per insertion. -/
theorem stuffedPositionOfAFieldEnd : Obligations.StuffedPositionOfAFieldEnd := by
  intro u
  refine ⟨spos_zero u, spos_one, spos_length u, fun k _ => rfl, fun k hk => spos_succ hk,
    fun k hk => ⟨?_, spos_eq_add_take_ins hk⟩⟩
  show spos u k = k + ((stuffRun u).ins.filter _).length
  rw [filter_ins_lt_spos]
  exact spos_eq_add_take_ins hk

/-- An inserted bit stands right after the copy that triggers it, and the next bit's copy right after it
(R121, R124). -/
theorem exists_copy_before_inserted {u : BitSeq} {p : Nat} (h : p ∈ (stuff u).insertedPositions) :
    ∃ k, p = spos u k + 1 ∧ spos u k ∉ (stuff u).insertedPositions ∧ spos u (k + 1) = p + 1 := by
  obtain ⟨k, b, hk, hp⟩ := stuffed_position_cases le_rfl (lt_spos_of_mem h)
  obtain ⟨-, hfresh, -⟩ := stuff_at_copied hk
  obtain ⟨rfl, h5⟩ := hp.resolve_left fun he => hfresh (he ▸ h)
  obtain ⟨-, -, hnext⟩ := stuff_at_inserted hk h5
  exact ⟨k, rfl, hfresh, hnext⟩

/-- No field begins with an inserted bit (R141, R150). -/
theorem spos_ne_of_mem {u : BitSeq} {p : Nat} (h : p ∈ (stuff u).insertedPositions) (j : Nat) :
    spos u j ≠ p := by
  obtain ⟨k, hp, -, hnext⟩ := exists_copy_before_inserted h
  rcases Nat.lt_or_ge k j with hkj | hjk
  · have hafter : spos u (k + 1) ≤ spos u j := spos_mono u hkj
    omega
  · have hbefore : spos u j ≤ spos u k := spos_mono u hjk
    omega

end Sys2Proof.Machine

namespace Sys2Proof.Machine

open Claims

/-! ### VALIDATE (R135, R195) -/

section Validate

variable (policy : Config.PadPolicy) {d : Descriptor}

theorem validateUnder_of_identifier_gt (hid : 2047 < d.identifier) :
    validateUnder policy d = some (.invalidIdentifier d.identifier) := if_pos hid

theorem validateUnder_of_dlc_gt (hid : d.identifier ≤ 2047) (hdlc : 8 < d.dlc) :
    validateUnder policy d = some (.invalidDlc d.dlc) := by
  rw [validateUnder, if_neg hid.not_gt, if_pos hdlc]

theorem validateUnder_of_bad_byte (hid : d.identifier ≤ 2047) (hdlc : d.dlc ≤ 8) {k : Nat}
    (hk : d.dataBytes.findIdx? (255 < ·) = some k) :
    validateUnder policy d = some (.invalidDataByte k) := by
  rw [validateUnder, if_neg hid.not_gt, if_neg hdlc.not_gt, hk]

/-- With legal bytes only the identifier, the dlc and, under REJECT, the supplied count can be a cause. -/
theorem validateUnder_of_bytes_le (hbytes : ∀ x ∈ d.dataBytes, x ≤ 255) :
    validateUnder policy d =
      if 2047 < d.identifier then some (.invalidIdentifier d.identifier)
      else if 8 < d.dlc then some (.invalidDlc d.dlc)
      else if policy = .reject ∧ d.dataBytes.length < d.dlc then
        some (.insufficientDataBytes d.dataBytes.length d.dlc)
      else none := by
  have hnone : d.dataBytes.findIdx? (255 < ·) = none := by simpa using hbytes
  rw [validateUnder, hnone]

end Validate

/-- The fourth cause is looked for only when the first three are absent (R135, R195). -/
theorem validateUnder_reject (d : Descriptor) :
    validateUnder .reject d = (validateUnder .zeroPad d).or
      (if d.dataBytes.length < d.dlc then some (.insufficientDataBytes d.dataBytes.length d.dlc)
        else none) := by
  rcases Nat.lt_or_ge 2047 d.identifier with hid | hid
  · simp only [validateUnder_of_identifier_gt _ hid, Option.some_or]
  rcases Nat.lt_or_ge 8 d.dlc with hdlc | hdlc
  · simp only [validateUnder_of_dlc_gt _ hid hdlc, Option.some_or]
  cases hk : d.dataBytes.findIdx? (255 < ·) with
  | some k => simp only [validateUnder_of_bad_byte _ hid hdlc hk, Option.some_or]
  | none =>
    have hbytes : ∀ x ∈ d.dataBytes, x ≤ 255 := by simpa using hk
    simp [validateUnder_of_bytes_le _ hbytes, hid.not_gt, hdlc.not_gt]

theorem exec_validate_of_none {d : Descriptor} (h : validate d = none) (s : State) :
    exec (.validate d) s = .next (returning s .accepted) := by
  show execValidate d s = _
  rw [execValidate, h]
  rfl

theorem exec_validate_of_some {d : Descriptor} {e : EncodeError} (h : validate d = some e) (s : State) :
    exec (.validate d) s = .next (returning s (.error e)) := by
  show execValidate d s = _
  rw [execValidate, h]
  rfl

/-- This hardware takes any number of legal bytes (R135, `ZERO_PAD`). -/
theorem validate_of_bytes_le {d : Descriptor} (hbytes : ∀ x ∈ d.dataBytes, x ≤ 255) :
    validate d =
      if 2047 < d.identifier then some (.invalidIdentifier d.identifier)
      else if 8 < d.dlc then some (.invalidDlc d.dlc)
      else none := by
  simp [validate, validateUnder_of_bytes_le _ hbytes]

theorem validate_of_legal {d : Descriptor} (hid : d.identifier ≤ 2047) (hdlc : d.dlc ≤ 8)
    (hbytes : ∀ x ∈ d.dataBytes, x ≤ 255) : validate d = none := by
  rw [validate_of_bytes_le hbytes, if_neg hid.not_gt, if_neg hdlc.not_gt]

/-- Settles O20: the branches of VALIDATE in order, and REJECT as one more cause after them. -/
theorem validateReportsTheFirstCause : Obligations.ValidateReportsTheFirstCause := by
  refine ⟨fun s d hid => exec_validate_of_some (validateUnder_of_identifier_gt _ hid) s,
    fun s d hid hdlc => exec_validate_of_some (validateUnder_of_dlc_gt _ hid hdlc) s,
    fun s d k x hid hdlc hx hgt hfirst => ?_,
    fun s d hid hdlc hbytes => exec_validate_of_none (validate_of_legal hid hdlc hbytes) s,
    fun d e he => ?_, fun d hnone => ?_⟩
  · obtain ⟨hk, rfl⟩ := List.getElem?_eq_some_iff.mp hx
    have hfind : d.dataBytes.findIdx? (255 < ·) = some k := by
      refine List.findIdx?_eq_some_iff_getElem.mpr ⟨hk, decide_eq_true hgt, fun j hj => ?_⟩
      have := hfirst j _ hj (List.getElem?_eq_getElem (hj.trans hk))
      simpa using this
    exact exec_validate_of_some (validateUnder_of_bad_byte _ hid hdlc hfind) s
  · rw [validateUnder_reject, he, Option.some_or]
  · rw [validateUnder_reject, hnone, Option.none_or]

end Sys2Proof.Machine

namespace Sys2Proof.Machine

open Claims

/-! ### The lengths and the stuffed part of a frame (R144, R147) -/

theorem construct_insertedPositions (d : Descriptor) :
    (construct d).insertedPositions = (stuff (preCrc d)).insertedPositions := rfl

theorem construct_bits_take (d : Descriptor) :
    (construct d).bits.take (stuff (preCrc d)).stuffedBits.length = (stuff (preCrc d)).stuffedBits := by
  rw [construct_bits, List.take_left]

/-- Settles O23: the frame is the stuffed sequence and 25 bits more. -/
theorem frameLengthCountsTheInsertedBits : Obligations.FrameLengthCountsTheInsertedBits := by
  intro d r hr
  obtain ⟨-, rfl⟩ := assemble_eq_ok hr
  obtain ⟨-, -, hlen, -⟩ := stuffRun_bounds (preCrc d)
  rw [preCrc_length] at hlen
  exact ⟨preCrc_length d, hlen, construct_bits_length_eq d⟩

/-- Settles O27: the stuffed sequence begins the frame, and DESTUFF undoes STUFF. -/
theorem unstuffedSequenceIsRecovered : Obligations.UnstuffedSequenceIsRecovered := by
  intro d r hr m
  obtain ⟨-, rfl⟩ := assemble_eq_ok hr
  refine ⟨rfl, construct_bits_take d, fun p hp => stuffRun_ins_lt hp, ?_⟩
  rw [construct_bits_take, construct_insertedPositions, destuff_stuff]

/-! ### The range tables (R142, R143, R148, R150) -/

theorem preCrc_length_ge (d : Descriptor) : 19 ≤ (preCrc d).length := by
  rw [preCrc_length]
  exact Nat.le_add_right _ _

theorem spos_one_preCrc (d : Descriptor) : spos (preCrc d) 1 = 1 :=
  spos_one (List.ne_nil_of_length_pos (Nat.lt_of_lt_of_le (by decide) (preCrc_length_ge d)))

section Ranges

variable {u : BitSeq} (hu : 19 ≤ u.length)
include hu

/-- The field ends of `U` are in order, and only those of the data field can meet (R141, R142, R143). -/
theorem spos_fieldEnds : 0 < spos u 1 ∧ spos u 1 < spos u 12 ∧ spos u 12 < spos u 13 ∧
    spos u 13 < spos u 14 ∧ spos u 14 < spos u 15 ∧ spos u 15 < spos u 19 ∧
    spos u 19 ≤ spos u u.length :=
  have hlt {j k : Nat} (hjk : j < k) (hk : k ≤ 19) : spos u j < spos u k :=
    spos_lt_spos hjk (hk.trans hu)
  ⟨spos_zero u ▸ hlt (j := 0) (by decide) (by decide), hlt (by decide) (by decide),
    hlt (by decide) (by decide), hlt (by decide) (by decide), hlt (by decide) (by decide),
    hlt (by decide) (by decide), spos_mono u hu⟩

theorem fieldRangesOf_tiles :
    Tiles 0 ((fieldRangesOf u).map fun x => (x.start, x.stop)) (spos u u.length + 25) := by
  obtain ⟨h1, h12, h13, h14, h15, h19, hm⟩ := spos_fieldEnds hu
  simp only [fieldRangesOf, List.map_cons, List.map_nil, Tiles, true_and, and_true]
  omega

theorem subRangesOf_tiles :
    Tiles 0 ((subRangesOf u).map fun x => (x.start, x.stop)) (spos u u.length + 25) := by
  obtain ⟨h1, h12, h13, h14, h15, h19, hm⟩ := spos_fieldEnds hu
  simp only [subRangesOf, List.map_cons, List.map_nil, Tiles, true_and, and_true]
  omega

theorem field_eq_data_of_empty_fieldRange :
    ∀ x ∈ fieldRangesOf u, x.start = x.stop → x.field = .data := by
  obtain ⟨h1, h12, h13, h14, h15, h19, hm⟩ := spos_fieldEnds hu
  simp only [fieldRangesOf, List.forall_mem_cons, List.not_mem_nil, false_implies, implies_true,
    reduceCtorEq, imp_false, true_and, and_true]
  omega

theorem field_eq_data_of_empty_subRange :
    ∀ x ∈ subRangesOf u, x.start = x.stop → x.field = .data := by
  obtain ⟨h1, h12, h13, h14, h15, h19, hm⟩ := spos_fieldEnds hu
  simp only [subRangesOf, List.forall_mem_cons, List.not_mem_nil, false_implies, implies_true,
    reduceCtorEq, imp_false, true_and, and_true]
  omega

end Ranges

/-- Settles O25: the ends of the fields are in order in both tables. -/
theorem rangesTileTheFrame : Obligations.RangesTileTheFrame := by
  intro d r hr
  obtain ⟨-, rfl⟩ := assemble_eq_ok hr
  have hu := preCrc_length_ge d
  rw [construct_bits_length]
  exact ⟨fieldRangesOf_tiles hu, rfl, field_eq_data_of_empty_fieldRange hu,
    subRangesOf_tiles hu, rfl, field_eq_data_of_empty_subRange hu⟩

section Boundaries

variable {u : BitSeq} {p : Nat} (hp : p ∈ (stuff u).insertedPositions)
include hp

/-- An inserted position is no end of a range of R142: these are stuffed positions of copied bits, or lie
beyond the stuffed part. -/
theorem fieldRangesOf_ends_ne : ∀ x ∈ fieldRangesOf u, x.start ≠ p ∧ x.stop ≠ p := by
  have hends := spos_ne_of_mem hp
  have hzero := spos_zero u ▸ hends 0
  have hm := lt_spos_of_mem hp
  simp only [fieldRangesOf, List.forall_mem_cons, hends, hzero, ne_eq, not_false_eq_true, and_self,
    true_and, and_true, List.not_mem_nil, false_implies, implies_true]
  omega

/-- The same for the ranges of R143. -/
theorem subRangesOf_ends_ne : ∀ x ∈ subRangesOf u, x.start ≠ p ∧ x.stop ≠ p := by
  have hends := spos_ne_of_mem hp
  have hzero := spos_zero u ▸ hends 0
  have hm := lt_spos_of_mem hp
  simp only [subRangesOf, List.forall_mem_cons, hends, hzero, ne_eq, not_false_eq_true, and_self,
    true_and, and_true, List.not_mem_nil, false_implies, implies_true]
  omega

end Boundaries

/-- Settles O26: an inserted position is no end of a range, so it lies where the copy before it lies. -/
theorem insertedBitBelongsToTheFieldBeforeIt : Obligations.InsertedBitBelongsToTheFieldBeforeIt := by
  intro d r hr
  obtain ⟨-, rfl⟩ := assemble_eq_ok hr
  refine ⟨?_, fun p hp => ?_⟩
  · show some (FieldRange.mk .startOfFrame 0 (spos (preCrc d) 1)) = _
    rw [spos_one_preCrc]
  obtain ⟨k, rfl, hcopy, -⟩ := exists_copy_before_inserted hp
  refine ⟨Nat.succ_pos _, hcopy, fun x hx => ?_, fun x hx => ?_⟩
  · obtain ⟨hstart, hstop⟩ := fieldRangesOf_ends_ne hp x hx
    omega
  · obtain ⟨hstart, hstop⟩ := subRangesOf_ends_ne hp x hx
    omega

/-! ### What `assemble` reads of the data bytes (R149, R152) -/

theorem usedBytes_congr {d e : Descriptor} (hdlc : d.dlc = e.dlc)
    (h : ∀ k, k < d.dlc → d.dataBytes.getD k 0 = e.dataBytes.getD k 0) : usedBytes d = usedBytes e := by
  rw [usedBytes, usedBytes, ← hdlc]
  exact List.map_congr_left fun k hk => h k (List.mem_range.mp hk)

/-- Settles O28: legal bytes are read by `usedBytes` only. -/
theorem frameDependsOnUsedBytesOnly : Obligations.FrameDependsOnUsedBytesOnly := by
  intro identifier dlc a b remote ha hb hagree
  have hused : usedBytes ⟨identifier, dlc, a, remote⟩ = usedBytes ⟨identifier, dlc, b, remote⟩ :=
    usedBytes_congr rfl hagree
  have hconstruct : construct ⟨identifier, dlc, a, remote⟩ = construct ⟨identifier, dlc, b, remote⟩ := by
    rw [construct, construct, preCrc, preCrc, hused]
  have hvalidate : validate ⟨identifier, dlc, a, remote⟩ = validate ⟨identifier, dlc, b, remote⟩ :=
    (validate_of_bytes_le ha).trans (validate_of_bytes_le (d := ⟨identifier, dlc, b, remote⟩) hb).symm
  rw [assemble, assemble, hvalidate, hconstruct]

/-- With dlc 0 the stuffed part ends where the DLC field ends (R152). -/
theorem spos_length_of_dlc_zero {d : Descriptor} (h : d.dlc = 0) :
    spos (preCrc d) (preCrc d).length = spos (preCrc d) 19 := by
  rw [preCrc_length, h]

theorem eq_data_of_code_eq_six {f : SubField} (h : f.code = 6) : f = .data := by
  revert h; cases f <;> decide

theorem data_subRange_of_mem {u : BitSeq} :
    ∀ x ∈ subRangesOf u, x.field = .data → x.start = spos u 19 ∧ x.stop = spos u u.length := by
  simp [subRangesOf]

/-- No position lies in the empty data range (R152). -/
theorem fieldAt_ne_six_of_dlc_zero {d : Descriptor} (h : d.dlc = 0) (p : Nat) :
    (construct d).fieldAt p ≠ 6 := by
  rw [FrameResult.fieldAt]
  split
  · next x hx =>
    intro hcode
    obtain ⟨hstart, hstop⟩ := data_subRange_of_mem x (List.mem_of_find?_eq_some hx)
      (eq_data_of_code_eq_six hcode)
    have hin : x.start ≤ p ∧ p < x.stop := by simpa using List.find?_some hx
    rw [hstart, hstop, spos_length_of_dlc_zero h] at hin
    omega
  · decide

theorem exists_findIdx?_of_gt {bytes : List Nat} (h : ∃ x ∈ bytes, 255 < x) :
    ∃ k, bytes.findIdx? (255 < ·) = some k := by
  rw [← Option.isSome_iff_exists, List.findIdx?_isSome]
  simpa using h

/-- Settles O29: the data range is the empty one after the DLC field, and only VALIDATE reads the bytes. -/
theorem emptyDataFieldIsKept : Obligations.EmptyDataFieldIsKept := by
  intro d r hdlc hr
  obtain ⟨hval, rfl⟩ := assemble_eq_ok hr
  obtain ⟨hid, hle, hold⟩ := validateUnder_eq_none hval
  refine ⟨?_, ?_, rfl, rfl, fun b hb => ?_, fun bytes hbytes => ?_, fun bytes hbytes => ?_⟩
  · show some (FieldRange.mk .data (spos _ 19) (spos _ (preCrc d).length)) = _
    rw [spos_length_of_dlc_zero hdlc]
  · show some (SubRange.mk .data (spos _ 19) (spos _ (preCrc d).length)) = _
    rw [spos_length_of_dlc_zero hdlc]
  · obtain ⟨p, -, rfl⟩ := List.mem_map.mp hb
    exact fieldAt_ne_six_of_dlc_zero hdlc p
  · rw [← hr]
    exact frameDependsOnUsedBytesOnly _ _ _ _ _ hbytes hold fun k hk => by omega
  · obtain ⟨k, hk⟩ := exists_findIdx?_of_gt hbytes
    have hbad : validate { d with dataBytes := bytes } = some (.invalidDataByte k) :=
      validateUnder_of_bad_byte (d := { d with dataBytes := bytes }) _ hid hle hk
    exact ⟨k, by rw [assemble, hbad]⟩

/-! ### The calls of `assemble` (R145, R146) -/

theorem giveFrame_of_error {d : Descriptor} {e : EncodeError} (h : validate d = some e) (s : State) :
    s.giveFrame d = returning s (.error e) := by
  rw [State.giveFrame, assemble, h]
  rfl

theorem giveFrame_of_valid {d : Descriptor} (h : validate d = none) (s : State) :
    s.giveFrame d = returning s (.frame (construct d)) := by
  rw [State.giveFrame, assemble_of_validate h]
  rfl

/-- ENC.DATA and ENC.REMOTE are `assemble` with the RTR bit 0 and 1 (R145, R146). -/
theorem exec_encCall (s : State) (identifier dlc : Nat) (bytes : List Nat) (remote : Bool) :
    exec (if remote then .encRemote (.call identifier dlc bytes) else .encData (.call identifier dlc bytes)) s
      = .next (s.giveFrame ⟨identifier, dlc, bytes, remote⟩) := by
  cases remote <;> rfl

/-- Each top-level range is the union of the sub-ranges of its field (R77, R142, R143). -/
theorem mem_fieldRange_iff {u : BitSeq} (hu : 19 ≤ u.length) :
    ∀ x ∈ fieldRangesOf u, ∀ q, (x.start ≤ q ∧ q < x.stop) ↔
      ∃ y ∈ subRangesOf u, y.field.top = x.field ∧ y.start ≤ q ∧ q < y.stop := by
  obtain ⟨h1, h12, h13, h14, h15, h19, hm⟩ := spos_fieldEnds hu
  simp only [fieldRangesOf, subRangesOf, List.forall_mem_cons, List.exists_mem_cons_iff, SubField.top,
    List.not_mem_nil, false_implies, implies_true, reduceCtorEq, false_and, exists_false, or_false, false_or,
    true_and, and_true]
  refine ⟨fun q => ?_, fun q => ?_⟩ <;> omega

/-- Settles O22: `construct` with its fields written out. -/
theorem encodingCallsGiveTheFrame : Obligations.EncodingCallsGiveTheFrame := by
  intro s identifier dlc bytes remote i d
  have hexec : exec i s = .next (s.giveFrame d) := exec_encCall s identifier dlc bytes remote
  refine ⟨fun e he => by rw [hexec, giveFrame_of_error he], fun hval => ?_⟩
  obtain ⟨hid, hdlc, -⟩ := validateUnder_eq_none hval
  refine ⟨msbFirst 11 identifier, msbFirst 4 dlc, concatBits ((usedBytes d).map (msbFirst 8)),
    msbFirst 15 (crc15 (preCrc d)).toNat, intToBits_of_lt (Nat.lt_succ_of_le hid),
    intToBits_of_lt (hdlc.trans_lt (by decide)), bytesToBits_of_le (usedBytes_le_of_validate hval), ?_⟩
  intro u S m p
  have hu : u = preCrc d := by
    have hrtr : BitVec.ofBool remote = if remote then 1 else 0 := by cases remote <;> rfl
    simp [u, d, preCrc, hrtr]
  clear_value u
  subst hu
  refine ⟨intToBits_of_lt (crc15 _).isLt, ?_⟩
  intro r
  have hr : r = construct d := by
    rw [construct, fieldRangesOf, subRangesOf, spos_one_preCrc, ← stuff_length, frameBits]
    simp [r, S, m, p, spos, List.replicate]
  clear_value r
  subst hr
  exact ⟨by rw [hexec, giveFrame_of_valid hval], mem_fieldRange_iff (preCrc_length_ge d)⟩

end Sys2Proof.Machine

namespace Sys2Proof.Machine

open Claims

/-! ### Handshakes at the command port (R160, R178, R196) -/

/-- While a frame is sent or an error is pending, an offered command word is ignored (R160, U19). -/
theorem offerCommand_of_busy {s : State} (hs : s.stuck? = none) (hm : s.mode ≠ modeIdle) (c : Command) :
    offerCommand c s = .next s :=
  offerCommand_eq_next.mpr ⟨hs, (if_neg hm).symm⟩

theorem offerCommand_of_idle {s : State} (hs : s.stuck? = none) (hm : s.mode = modeIdle) (c : Command) :
    offerCommand c s = .next (s.acceptCommand c) :=
  offerCommand_eq_next.mpr ⟨hs, (if_pos hm).symm⟩

/-- ACCEPT is the effect of an edge in IDLE (R79). -/
theorem exec_accept_of_idle {s : State} (hs : s.stuck? = none) (hm : s.mode = modeIdle) :
    exec .accept s = .next s.edgeEffect := by
  rw [exec_selected (decode_select_eq_ok.mpr (.inl ⟨hm, rfl⟩)), unlessStuck_of_none hs]

theorem edgeEffect_of_command {s : State} (hm : s.mode = modeIdle) (hv : s.pins.cmdValid = 1) :
    s.edgeEffect = s.acceptCommand s.pins.cmd := by
  rw [State.edgeEffect, if_pos hm, if_pos hv]

/-- Settles O41: ACCEPT without a command, a beat without a consumer and a command while busy are each the
branch of the operation that keeps the state. -/
theorem nothingChangesWithoutAHandshake : Obligations.NothingChangesWithoutAHandshake := by
  refine ⟨fun s hm hs hv => ?_, fun s hm hs hc hr hv => ?_, fun s hm hs hc hr hready => ?_,
    fun s c hm hs => ⟨?_, ?_, ?_, ?_⟩⟩
  · rw [exec_accept_of_idle hs hm, edgeEffect_of_no_command hm hv]
  · rw [step_eq_edgeEffect hc hr hs, edgeEffect_of_no_command hm hv]
  · rw [step_eq_edgeEffect hc hr hs, edgeEffect_of_stall hm hready]
  all_goals exact offerCommand_of_busy hs hm _

/-- VALIDATE of a command at the port: every lane holds a legal byte (R190, R193). -/
theorem validate_descriptorOf (c : Command) : validate (descriptorOf c) =
    if 2047 < c.id.toNat then some (.invalidIdentifier c.id.toNat)
    else if 8 < c.dlc.toNat then some (.invalidDlc c.dlc.toNat)
    else none := by
  refine validate_of_bytes_le fun x hx => ?_
  obtain ⟨k, -, rfl⟩ := List.mem_map.mp hx
  exact Nat.le_of_lt_succ (lane c.data k).isLt

/-- What the pseudocode of R160 writes is what `startFrame` writes. -/
theorem startFrame_eq_started (s : State) (c : Command) : s.startFrame c = started s c := rfl

theorem acceptCommand_of_valid (s : State) {c : Command} (h : validate (descriptorOf c) = none) :
    s.acceptCommand c = s.startFrame c := by
  rw [State.acceptCommand, h]

theorem acceptCommand_of_invalid (s : State) {c : Command} {e : EncodeError}
    (h : validate (descriptorOf c) = some e) : s.acceptCommand c = s.raiseError e := by
  rw [State.acceptCommand, h]

/-- Settles O36: all three operations accept the command, and VALIDATE lets it start its frame. -/
theorem acceptStartsAFrame : Obligations.AcceptStartsAFrame := by
  intro s c hm hs hid hdlc
  have hval : validate (descriptorOf c) = none := by
    rw [validate_descriptorOf, if_neg hid.not_gt, if_neg hdlc.not_gt]
  have haccept : s.acceptCommand c = started s c := by
    rw [acceptCommand_of_valid s hval, startFrame_eq_started]
  refine ⟨fun hrtr => ?_, fun hrtr => ?_, fun hv hcmd => ?_⟩
  · rw [exec, execEncData, ← hrtr, offerCommand_of_idle hs hm, haccept]
  · rw [exec, execEncRemote, ← hrtr, offerCommand_of_idle hs hm, haccept]
  · rw [exec_accept_of_idle hs hm, edgeEffect_of_command hm hv, hcmd, haccept]

/-- Settles O37: the cause VALIDATE finds is raised, by the command word and by ACCEPT alike. -/
theorem invalidCommandRaisesItsError : Obligations.InvalidCommandRaisesItsError := by
  intro s c hm hs
  have hoffer : offerCommand c s = .next (s.acceptCommand c) := offerCommand_of_idle hs hm c
  have haccept (hv : s.pins.cmdValid = 1) (hcmd : s.pins.cmd = c) :
      exec .accept s = .next (s.acceptCommand c) := by
    rw [exec_accept_of_idle hs hm, edgeEffect_of_command hm hv, hcmd]
  refine ⟨fun hid => ?_, fun hid hdlc => ?_⟩
  · have hval : validate (descriptorOf c) = some (.invalidIdentifier c.id.toNat) := by
      rw [validate_descriptorOf, if_pos hid]
    rw [acceptCommand_of_invalid s hval] at hoffer haccept
    exact ⟨hoffer, haccept⟩
  · have hval : validate (descriptorOf c) = some (.invalidDlc c.dlc.toNat) := by
      rw [validate_descriptorOf, if_neg hid.not_gt, if_pos hdlc]
    rw [acceptCommand_of_invalid s hval] at hoffer haccept
    exact ⟨hoffer, haccept⟩

/-! ### The beats (R161, R174, R176) -/

/-- Settles O44: the effect of the edge while a stuff bit is pending, whatever `(ph, ix)`. -/
theorem stuffBeatEmitsTheComplementFirst : Obligations.StuffBeatEmitsTheComplementFirst := by
  intro s hm hsp hready hs t
  have hidle : s.mode ≠ modeIdle := by rw [hm]; decide
  have herr : s.mode ≠ modeErr := by rw [hm]; decide
  have heffect : s.edgeEffect = t := by
    rw [edgeEffect_of_ready hidle hready, if_neg herr, if_pos hsp]
    rfl
  have hsel : decode (.select s.select) = .ok .stuffBeat :=
    decode_select_eq_ok.mpr (.inr (.inr (.inl ⟨hm, hsp, rfl⟩)))
  refine ⟨?_, fun hc hr => ?_⟩
  · rw [exec_selected hsel, unlessStuck_of_none hs, heffect]
  · rw [step_eq_edgeEffect hc hr hs, heffect]

/-- Settles O45: the effect of the edge in ERR. -/
theorem errorBeatReportsTheCodeAndReturns : Obligations.ErrorBeatReportsTheCodeAndReturns := by
  intro s hm hready hs
  have hidle : s.mode ≠ modeIdle := by rw [hm]; decide
  have hsel : decode (.select s.select) = .ok .errBeat :=
    decode_select_eq_ok.mpr (.inr (.inl ⟨hm, rfl⟩))
  rw [exec_selected hsel, unlessStuck_of_none hs, edgeEffect_of_ready hidle hready, if_pos hm]
  rfl

end Sys2Proof.Machine

namespace Sys2Proof.Machine

open Claims

/-! ### EMIT as the pseudocode writes it (R161, R175) -/

/-- `PhLen` is the list of R175. -/
theorem phLen_eq_getD (ph dlc : BitVec 4) : phLen ph dlc = (phLenList dlc.toNat).getD ph.toNat 0 := by
  have hlist (n : Nat) (hn : n < 16) : phLen (BitVec.ofNat 4 n) dlc = (phLenList dlc.toNat).getD n 0 := by
    interval_cases n <;> rfl
  simpa using hlist ph.toNat ph.isLt

/-- Where the position moves, register by register (R175). -/
theorem advance_eq (ph : BitVec 4) (ix : BitVec 6) (dlc : BitVec 4) :
    advance ph ix dlc =
      (if ix.toNat + 1 < phLen ph dlc then ph else if ph = 11 then 0
        else if ph = 5 ∧ dlc = 0 then 7 else ph + 1,
      if ix.toNat + 1 < phLen ph dlc then ix + 1 else 0,
      if ¬ ix.toNat + 1 < phLen ph dlc ∧ ph = 11 then 0 else 1) := by
  unfold advance
  by_cases hmore : ix.toNat + 1 < phLen ph dlc
  · simp only [hmore, if_true, not_true, false_and, if_false]
  · simp only [hmore, if_false, not_false_iff, true_and]
    split_ifs <;> rfl

/-- The CRC step as R161 embeds it. -/
theorem crcStep_eq_ite (crc : BitVec 15) (b : Bit) : crcStep crc b =
    if crc.getLsbD 14 then (crc <<< 1 ||| b.setWidth 15) ^^^ 0x4599 else crc <<< 1 ||| b.setWidth 15 := by
  rw [crcStep_eq_xor]
  split <;> simp

/-- The counting rule on the register `run` (R121, R161). -/
theorem runCount_toNat (run : BitVec 3) (prev b : Bit) :
    runCount run.toNat prev b = if run ≠ 0 ∧ b = prev then run.toNat + 1 else 1 := by
  have hzero : run.toNat ≠ 0 ↔ run ≠ 0 := (BitVec.toNat_inj (y := 0)).not
  exact if_congr (and_congr_left' hzero) rfl rfl

/-- The embedded steps, register by register (R161). -/
theorem feed_eq (s : State) (v : Bit) : s.feed v =
    { s with
      crc := if s.ph.toNat ≤ 6 then crcStep s.crc v else s.crc
      prev := if s.ph.toNat ≤ 6 then v else s.prev
      run := if s.ph.toNat ≤ 6 then
          (if runCount s.run.toNat s.prev v = 5 then 0 else BitVec.ofNat 3 (runCount s.run.toNat s.prev v))
        else s.run
      sp := if s.ph.toNat ≤ 6 ∧ runCount s.run.toNat s.prev v = 5 then 1 else s.sp } := by
  have hpre : isPreCrc s.ph = true ↔ s.ph.toNat ≤ 6 := decide_eq_true_iff
  rcases feed_cases s v with ⟨hp, e⟩ | ⟨hp, h5, e⟩ | ⟨hp, h5, e⟩
  · have hph : ¬ s.ph.toNat ≤ 6 := by rw [← hpre, hp]; decide
    simp only [e, hph, if_false, false_and]
  · simp only [e, hpre.mp hp, h5, if_true, true_and]
  · simp only [e, hpre.mp hp, h5, if_true, if_false, and_false]

/-- The state after a copied-bit beat is the one R161 and R175 write out. -/
theorem emitCopied_eq_afterCopied (s : State) (v : Bit) : s.emitCopied v = afterCopied s v := by
  simp only [State.emitCopied, feed_eq, State.advancePosition, advance_eq, phLen_eq_getD, crcStep_eq_ite,
    State.transfer, State.copiedBeat, isLastBit_eq_ite, runCount_toNat]
  rfl

/-- A single bit cut out of a word. -/
theorem extractLsb'_one_eq_ofBool {n : Nat} (w : BitVec n) (i : Nat) :
    w.extractLsb' i 1 = BitVec.ofBool (w.getLsbD i) := by
  ext j hj
  obtain rfl : j = 0 := by omega
  simp

/-- A phase operation that `SEL` names completes when the consumer is ready (R161). -/
theorem execPhase_of_ready {s : State} (hm : s.mode = modeRun) (hsp : s.sp = 0)
    (hready : s.pins.outReady = 1) (hs : s.stuck? = none) {code : BitVec 4} (hp : s.ph = code) (v : Bit) :
    execPhase code v s = .next (afterCopied s v) :=
  execPhase_eq_next.mpr ⟨⟨hm, hsp, hp⟩, hs, by rw [if_pos hready, emitCopied_eq_afterCopied]⟩

/-- Settles O42: each operation is `EMIT` with its phase's code and source bit. -/
theorem preCrcPhasesEmitTheirBits : Obligations.PreCrcPhasesEmitTheirBits := by
  intro s hm hsp hready hs
  simp only [← extractLsb'_one_eq_ofBool]
  have emits {code : BitVec 4} (hp : s.ph = code) (v : Bit) := execPhase_of_ready hm hsp hready hs hp v
  exact ⟨fun hp => emits hp 0, fun hp => emits hp s.idBit, fun hp => emits hp s.dRtr,
    fun hp => emits hp 0, fun hp => emits hp 0, fun hp => emits hp s.dlcBit, fun hp => emits hp s.dataBit⟩

theorem isPreCrc_eq_false_of_le {ph : BitVec 4} (h : 7 ≤ ph) : isPreCrc ph = false := by
  revert ph; decide

/-- Settles O43: each operation is `EMIT` with its phase's code and source bit, and the tail feeds
nothing. -/
theorem tailPhasesEmitTheirBits : Obligations.TailPhasesEmitTheirBits := by
  intro s hm hsp hready hs
  simp only [← extractLsb'_one_eq_ofBool]
  have emits {code : BitVec 4} (hp : s.ph = code) (v : Bit) := execPhase_of_ready hm hsp hready hs hp v
  refine ⟨fun hp => emits hp s.crcBit, fun hp => emits hp 1, fun hp => emits hp 1,
    fun hp => emits hp 1, fun hp => emits hp 1, fun hp v => ?_⟩
  have htail : isPreCrc s.ph = false := isPreCrc_eq_false_of_le hp
  rw [← emitCopied_eq_afterCopied, ← hsp]
  exact emitCopied_registers_of_tail v htail

end Sys2Proof.Machine

namespace Sys2Proof.Machine

/-! ### The latch holds the accepted command (R31, R54, R160) -/

/-- The four registers of the latch hold the command `c`, its lanes padded. -/
structure State.Holds (c : Command) (s : State) : Prop where
  dId_eq : s.dId = BitVec.ofNat 11 c.id.toNat
  dRtr_eq : s.dRtr = c.rtr
  dDlc_eq : s.dDlc = c.dlc
  dData_eq : s.dData = paddedData c.nbytes c.data

theorem holds_startFrame (s : State) (c : Command) : (s.startFrame c).Holds c := ⟨rfl, rfl, rfl, rfl⟩

section Holds

variable {c : Command} {s : State}

theorem State.Holds.nextPins (h : s.Holds c) : s.nextPins.Holds c := by
  obtain ⟨hid, hrtr, hdlc, hdata⟩ := h
  exact ⟨by simpa, by simpa, by simpa, by simpa⟩

theorem State.Holds.emitStuffed (h : s.Holds c) : s.emitStuffed.Holds c :=
  ⟨h.dId_eq, h.dRtr_eq, h.dDlc_eq, h.dData_eq⟩

theorem State.Holds.emitCopied (h : s.Holds c) (v : Bit) : (s.emitCopied v).Holds c := by
  obtain ⟨hid, hrtr, hdlc, hdata, -⟩ := emitCopied_frame s v
  exact ⟨hid.trans h.dId_eq, hrtr.trans h.dRtr_eq, hdlc.trans h.dDlc_eq, hdata.trans h.dData_eq⟩

variable (h : s.Holds c) (hval : validate (descriptorOf c) = none)
include h hval

theorem State.Holds.dDlc_le : s.dDlc ≤ 8 := by
  obtain ⟨-, hdlc, -⟩ := validateUnder_eq_none hval
  rw [h.dDlc_eq]
  exact hdlc

/-- The latched descriptor and that of the command have the same pre-CRC sequence: they differ in unused
bytes only (R54, R136). -/
theorem State.Holds.preCrc_latched : preCrc s.latched = preCrc (descriptorOf c) := by
  obtain ⟨hid, hdlc, -⟩ := validateUnder_eq_none hval
  have hid' : s.latched.identifier = (descriptorOf c).identifier := by
    have hlt : c.id.toNat < 2 ^ 11 := Nat.lt_succ_of_le hid
    rw [State.latched, h.dId_eq]
    exact Nat.mod_eq_of_lt hlt
  have hdlc' : s.latched.dlc = (descriptorOf c).dlc := congrArg BitVec.toNat h.dDlc_eq
  have hrtr' : s.latched.remoteRequest = (descriptorOf c).remoteRequest := congrArg (· == 1) h.dRtr_eq
  have hused : usedBytes s.latched = usedBytes (descriptorOf c) := by
    refine (usedBytes_latched (h.dDlc_le hval)).trans ?_
    rw [usedBytes, ← hdlc']
    refine List.map_congr_left fun k hk => ?_
    have hk8 : k < 8 := (List.mem_range.mp hk).trans_le (h.dDlc_le hval)
    rw [h.dData_eq, lane_paddedData _ _ hk8, dataByte_descriptorOf]
  rw [preCrc_eq, preCrc_eq, hid', hdlc', hrtr', hused]

theorem State.Holds.construct_latched : construct s.latched = construct (descriptorOf c) := by
  rw [construct, construct, h.preCrc_latched hval]

end Holds

/-! ### A frame in progress and its end (R177, R181) -/

/-- The frame of command `c` is in progress, `n` of its beats are sent. -/
structure State.InFrame (base : List Beat) (c : Command) (n : Nat) (s : State) : Prop where
  holds : s.Holds c
  tracks : s.Tracks base
  opos_eq : s.opos.toNat = n

/-- The frame of command `c` has just ended (R177). -/
structure State.FrameDone (base : List Beat) (c : Command) (s : State) : Prop where
  holds : s.Holds c
  atRest : s.AtRest
  mode_idle : s.mode = modeIdle
  crc_eq : s.crc = crc15 (preCrc (descriptorOf c))
  opos_eq : s.opos.toNat = (construct (descriptorOf c)).bits.length
  sent_eq : s.sent = base ++ (construct (descriptorOf c)).response

theorem response_length (r : FrameResult) : r.response.length = r.bits.length := by
  simp [FrameResult.response]

theorem inFrame_startFrame (s : State) (c : Command) : (s.startFrame c).InFrame s.sent c 0 :=
  ⟨holds_startFrame s c, tracks_startFrame s c, rfl⟩

section Tracks

variable {base : List Beat} {s : State}

theorem State.Tracks.nextPins (h : s.Tracks base) : s.nextPins.Tracks base := by
  unfold State.nextPins
  split
  · exact h
  · obtain ⟨hm, he, hph, hix, hcrc, hrun, hprev, hopos, hpend, hsent⟩ := h
    exact ⟨hm, he, hph, hix, hcrc, hrun, hprev, hopos, hpend, hsent⟩

theorem State.Tracks.mode_ne_idle (h : s.Tracks base) : s.mode ≠ modeIdle := by
  rw [h.mode_run]; decide

/-- A frame in progress has a beat left (R181). -/
theorem State.Tracks.opos_lt (h : s.Tracks base) : s.opos.toNat < (construct s.latched).bits.length := by
  have hpos := h.opos_add_sp
  have htail := tailEmitted_le h.ph_le h.ix_lt
  have hspos : spos (preCrc s.latched) s.copied ≤ spos (preCrc s.latched) (preCrc s.latched).length := by
    rw [spos_length]
    exact (stuffRun_take_out_isPrefix _ _).length_le
  rw [construct_bits_length]
  omega

/-- In the tail the position is that of the tail bits emitted (R36, R59). -/
theorem State.Tracks.opos_of_tail (h : s.Tracks base) (hs : s.sp = 0) (hp : isPreCrc s.ph = false) :
    s.opos.toNat = spos (preCrc s.latched) (preCrc s.latched).length + s.tailEmitted := by
  have hpos := h.opos_add_sp
  rwa [hs, spos_eq, take_copied_of_tail hp, ← spos_length] at hpos

/-- The beat that ends the frame is the last one of the response (R38, R181). -/
theorem State.Tracks.sent_of_last (h : s.Tracks base) (hs : s.sp = 0) (hp : isPreCrc s.ph = false)
    (hrest : (s.emitCopied s.sourceBit).mode = modeIdle) :
    s.opos.toNat + 1 = (construct s.latched).bits.length ∧
    (s.emitCopied s.sourceBit).sent = base ++ (construct s.latched).response := by
  have hlast : s.ph = 11 ∧ s.ix.toNat = 6 :=
    (emitCopied_keeps_mode s.sourceBit h.mode_run h.ix_lt).resolve_left fun he =>
      h.mode_ne_idle (he ▸ hrest)
  have h24 : s.tailEmitted = 24 :=
    (tailEmitted_lt hp h.ph_le h.ix_lt).2.mpr ⟨hlast.1, BitVec.eq_of_toNat_eq hlast.2⟩
  have hcrc : s.crc = crc15 (preCrc s.latched) := by rw [h.crc_eq, take_copied_of_tail hp]
  have hbeat := response_at_tail hp h.ph_le h.ix_lt hcrc
  rw [← h.opos_of_tail hs hp] at hbeat
  have hend : s.opos.toNat + 1 = (construct s.latched).bits.length := by
    rw [h.opos_of_tail hs hp, h24, construct_bits_length]
  refine ⟨hend, ?_⟩
  rw [emitCopied_sent, h.sent_eq, List.append_assoc, ← take_succ_of_getElem? hbeat,
    List.take_of_length_le (by rw [response_length, hend])]

end Tracks

section Frame

variable {base : List Beat} {c : Command} {n : Nat} {s : State}

theorem State.InFrame.nextPins (h : s.InFrame base c n) : s.nextPins.InFrame base c n :=
  ⟨h.holds.nextPins, h.tracks.nextPins, by rw [State.nextPins_opos, h.opos_eq]⟩

variable (hval : validate (descriptorOf c) = none)
include hval

theorem State.InFrame.inv (h : s.InFrame base c n) : s.Inv :=
  ⟨h.holds.dDlc_le hval, .inr ⟨base, h.tracks⟩⟩

theorem State.InFrame.sent_eq (h : s.InFrame base c n) :
    s.sent = base ++ (construct (descriptorOf c)).response.take n := by
  rw [h.tracks.sent_eq, h.holds.construct_latched hval, h.opos_eq]

theorem State.InFrame.lt_length (h : s.InFrame base c n) :
    n < (construct (descriptorOf c)).bits.length := by
  have hlt := h.tracks.opos_lt
  rwa [h.opos_eq, h.holds.construct_latched hval] at hlt

theorem State.FrameDone.inv (h : s.FrameDone base c) : s.Inv :=
  ⟨h.holds.dDlc_le hval, .inl h.atRest⟩

/-- The beat due in a frame is one more beat sent, or the last one (R161, R174, R181). -/
theorem State.InFrame.edge_cases (h : s.InFrame base c n) (hready : s.pins.outReady = 1) :
    s.edgeEffect.InFrame base c (n + 1) ∨
    (n + 1 = (construct (descriptorOf c)).bits.length ∧ s.edgeEffect.FrameDone base c) := by
  obtain ⟨hholds, ht, hopos⟩ := h
  have hd := hholds.dDlc_le hval
  have herr : s.mode ≠ modeErr := by rw [ht.mode_run]; decide
  have hnext : (s.opos + 1).toNat = n + 1 := by
    have := ht.opos_add_sp_le hd
    rw [opos_succ_toNat (by omega), hopos]
  rw [edgeEffect_of_ready ht.mode_ne_idle hready, if_neg herr]
  rcases bit_cases s.sp with hs | hs
  · rw [if_neg (by rw [hs]; decide)]
    have hholds' := hholds.emitCopied s.sourceBit
    have hopos' : (s.emitCopied s.sourceBit).opos.toNat = n + 1 := by rw [emitCopied_opos, hnext]
    cases hp : isPreCrc s.ph
    · rcases ht.emitCopied_of_tail hd hs hp with ht' | hrest
      · exact .inl ⟨hholds', ht', hopos'⟩
      · obtain ⟨hidle, -⟩ := hrest.mode_ecode.resolve_right fun ⟨_, he⟩ =>
          he (by rw [emitCopied_ecode, ht.ecode_zero])
        obtain ⟨hend, hsent⟩ := ht.sent_of_last hs hp hidle
        obtain ⟨hcrc, -⟩ := emitCopied_registers_of_tail s.sourceBit hp
        rw [hopos, hholds.construct_latched hval] at hend
        refine .inr ⟨hend, hholds', hrest, hidle, ?_, hopos'.trans hend, ?_⟩
        · rw [hcrc, ht.crc_eq, take_copied_of_tail hp, hholds.preCrc_latched hval]
        · rw [hsent, hholds.construct_latched hval]
    · exact .inl ⟨hholds', ht.emitCopied_of_pre hd hs hp, hopos'⟩
  · rw [if_pos hs]
    exact .inl ⟨hholds.emitStuffed, ht.emitStuffed hd hs, hnext⟩

end Frame

end Sys2Proof.Machine

namespace Sys2Proof.Machine

/-! ### Edges in a row (R179) -/

/-- The input levels an edge leaves are those of the plan moved on by one (log entry 4). -/
theorem pinsAt_nextPins (s : State) (j : Nat) : s.nextPins.pinsAt j = s.pinsAt (j + 1) := by
  unfold State.nextPins State.pinsAt
  cases hf : s.future with
  | nil => cases j <;> simp [hf]
  | cons p rest => simp [List.getLast?_cons]

theorem pinsAt_zero (s : State) : s.pinsAt 0 = s.pins := rfl

theorem pinsAt_of_no_future {s : State} (hf : s.future = []) (j : Nat) : s.pinsAt j = s.pins := by
  unfold State.pinsAt
  cases j <;> simp [hf]

/-- No operation of an edge touches the input levels or the waiting calls. -/
theorem edgeEffect_environment (s : State) :
    s.edgeEffect.pins = s.pins ∧ s.edgeEffect.calls = s.calls := by
  unfold State.edgeEffect
  split_ifs
  · rcases acceptCommand_cases s s.pins.cmd with ⟨e, -, he⟩ | ⟨-, he⟩ <;> simp [he]
  · exact ⟨rfl, rfl⟩
  · exact ⟨rfl, rfl⟩
  · exact ⟨rfl, rfl⟩
  · exact ⟨rfl, rfl⟩
  · obtain ⟨-, -, -, -, -, hpins, -, hcalls, -⟩ := emitCopied_frame s s.sourceBit
    exact ⟨hpins, hcalls⟩

theorem pinsAt_edgeEffect (s : State) (j : Nat) : s.edgeEffect.pinsAt j = s.pinsAt j := by
  obtain ⟨hpins, -⟩ := edgeEffect_environment s
  rw [State.pinsAt, State.pinsAt, hpins, edgeEffect_future]

theorem run_succ_of_step {s t : State} (h : step s = .next t) (k : Nat) :
    Host.Core.run Sys2Proof.core (k + 1) s = Host.Core.run Sys2Proof.core k t := by
  have hcore : Sys2Proof.core.step s = .next t := h
  simp only [Host.Core.run, hcore]

theorem run_snoc {k : Nat} {s t u : State} (h : Host.Core.run Sys2Proof.core k s = .next t)
    (hstep : step t = .next u) : Host.Core.run Sys2Proof.core (k + 1) s = .next u := by
  induction k generalizing s with
  | zero => cases h; exact run_succ_of_step hstep 0
  | succ k ih =>
    simp only [Host.Core.run] at h
    split at h
    · next v hv => exact (run_succ_of_step hv _).trans (ih h)
    · cases h
    · cases h

/-- How many of the coming `k` edges have `out_ready = 1` (`readyEdges_eq`). -/
def State.takenEdges (s : State) (k : Nat) : Nat :=
  (List.range k).countP fun j => (s.pinsAt j).outReady == 1

theorem readyEdges_eq (s : State) (k : Nat) : s.readyEdges k = s.nextPins.takenEdges k := by
  simp only [State.readyEdges, State.takenEdges, pinsAt_nextPins]

theorem takenEdges_congr {s t : State} (h : ∀ j, s.pinsAt j = t.pinsAt j) (k : Nat) :
    s.takenEdges k = t.takenEdges k := by
  simp only [State.takenEdges, h]

theorem takenEdges_succ (s : State) (k : Nat) :
    s.takenEdges (k + 1) = (if s.pins.outReady = 1 then 1 else 0) + s.nextPins.takenEdges k := by
  simp only [State.takenEdges, pinsAt_nextPins, List.range_succ_eq_map, List.countP_cons, List.countP_map,
    Function.comp_def, pinsAt_zero, beq_iff_eq]
  rw [Nat.add_comm]

/-- With held levels and a ready consumer every edge takes a beat (log entry 4). -/
theorem readyEdges_of_held {s : State} (hf : s.future = []) (hready : s.pins.outReady = 1) (k : Nat) :
    s.readyEdges k = k := by
  simp [State.readyEdges, pinsAt_of_no_future hf, hready, List.countP_true]

end Sys2Proof.Machine

namespace Sys2Proof.Machine

/-! ### The response under any pacing (R179, R181) -/

theorem State.Inv.not_stuck {s : State} (h : s.Inv) : s.stuck? = none := by
  obtain ⟨hmode, herr, hdlc, -, hix, hrun, -⟩ := invariantGivesTheStateInvariants s h
  refine stuck_eq_none_iff.mpr ⟨?_, fun hne => not_not.mp (herr.not.mp hne), by omega, hdlc,
    fun _ _ => hix⟩
  rcases hmode with hm | hm | hm <;> rw [hm] <;> decide

/-- `n` beats of the response to command `c` are sent, and none else after `base`. Once all are sent the
frame is over, and whatever the command port does then is no part of this. -/
structure State.Delivered (base : List Beat) (c : Command) (n : Nat) (s : State) : Prop where
  calls_nil : s.calls = []
  inv : s.Inv
  sent_eq : s.sent = base ++ (construct (descriptorOf c)).response.take n
  inFrame : n < (construct (descriptorOf c)).bits.length → s.InFrame base c n

section Delivered

variable {base : List Beat} {c : Command} {n : Nat} {s : State}

theorem State.Delivered.nextPins (h : s.Delivered base c n) : s.nextPins.Delivered base c n :=
  ⟨by rw [State.nextPins_calls, h.calls_nil], h.inv.nextPins, by rw [State.nextPins_sent, h.sent_eq],
    fun hn => (h.inFrame hn).nextPins⟩

/-- An edge at which the consumer is not ready sends nothing, in a frame or after it (R179). -/
theorem edgeEffect_sent_of_not_ready (hready : s.pins.outReady ≠ 1) : s.edgeEffect.sent = s.sent := by
  by_cases hm : s.mode = modeIdle
  · exact edgeEffect_sent_of_idle hm
  · rw [edgeEffect_of_stall hm hready]

/-- An edge without reset completes and keeps the invariant. -/
theorem State.Inv.step_edgeEffect (h : s.Inv) (hc : s.calls = []) (hr : s.pins.rst ≠ 1) :
    step s = .next s.edgeEffect.nextPins ∧ s.edgeEffect.nextPins.Inv := by
  have hstep := step_eq_edgeEffect hc hr h.not_stuck
  exact ⟨hstep, stepKeepsTheInvariant _ _ h hstep⟩

variable (hval : validate (descriptorOf c) = none)
include hval

theorem State.InFrame.delivered (h : s.InFrame base c n) (hc : s.calls = []) : s.Delivered base c n :=
  ⟨hc, h.inv hval, h.sent_eq hval, fun _ => h⟩

theorem State.FrameDone.delivered (h : s.FrameDone base c) (hc : s.calls = []) :
    s.Delivered base c (construct (descriptorOf c)).bits.length :=
  ⟨hc, h.inv hval, by rw [h.sent_eq, List.take_of_length_le (response_length _).le],
    fun hlt => absurd hlt (Nat.lt_irrefl _)⟩

/-- An edge delivers one beat when the consumer is ready and none when it is not. -/
theorem State.Delivered.after_edge (h : s.Delivered base c n) (hr : s.pins.rst ≠ 1)
    (hle : n + (if s.pins.outReady = 1 then 1 else 0) ≤ (construct (descriptorOf c)).bits.length) :
    step s = .next s.edgeEffect.nextPins ∧
    s.edgeEffect.nextPins.Delivered base c (n + if s.pins.outReady = 1 then 1 else 0) := by
  obtain ⟨hstep, hinv⟩ := h.inv.step_edgeEffect h.calls_nil hr
  have hcalls : s.edgeEffect.calls = [] := (edgeEffect_environment s).2.trans h.calls_nil
  refine ⟨hstep, ?_⟩
  by_cases hready : s.pins.outReady = 1
  · rw [if_pos hready] at hle ⊢
    rcases (h.inFrame hle).edge_cases hval hready with hframe | ⟨hend, hdone⟩
    · exact (hframe.delivered hval hcalls).nextPins
    · rw [hend]
      exact (hdone.delivered hval hcalls).nextPins
  · rw [if_neg hready, Nat.add_zero]
    refine ⟨(State.nextPins_calls _).trans hcalls, hinv, ?_, fun hn => ?_⟩
    · rw [State.nextPins_sent, edgeEffect_sent_of_not_ready hready, h.sent_eq]
    · have hframe := h.inFrame hn
      rw [edgeEffect_of_stall hframe.tracks.mode_ne_idle hready]
      exact hframe.nextPins

/-- Any number of edges delivers as many beats as the consumer was ready for. -/
theorem State.Delivered.after_run (k : Nat) (h : s.Delivered base c n)
    (hr : ∀ j, j < k → (s.pinsAt j).rst ≠ 1)
    (hle : n + s.takenEdges k ≤ (construct (descriptorOf c)).bits.length) :
    ∃ t : State, Host.Core.run Sys2Proof.core k s = .next t ∧ t.Delivered base c (n + s.takenEdges k) ∧
      ∀ j, t.pinsAt j = s.pinsAt (k + j) := by
  induction k generalizing s n with
  | zero => exact ⟨s, rfl, h, fun j => by rw [Nat.zero_add]⟩
  | succ k ih =>
    have hpins (j : Nat) : s.edgeEffect.nextPins.pinsAt j = s.nextPins.pinsAt j := by
      rw [pinsAt_nextPins, pinsAt_nextPins, pinsAt_edgeEffect]
    have htaken := takenEdges_congr hpins k
    rw [takenEdges_succ, ← htaken, ← Nat.add_assoc] at hle ⊢
    obtain ⟨hstep, hnext⟩ := h.after_edge hval (hr 0 (Nat.zero_lt_succ k)) (by omega)
    obtain ⟨t, hrun, hdelivered, htpins⟩ := ih hnext
      (fun j hj => by rw [hpins, pinsAt_nextPins]; exact hr (j + 1) (Nat.succ_lt_succ hj)) (by omega)
    exact ⟨t, (run_succ_of_step hstep k).trans hrun, hdelivered, fun j => by
      rw [htpins, hpins, pinsAt_nextPins, Nat.add_right_comm]⟩

end Delivered

/-! ### A command that is accepted in IDLE (R160, R181) -/

section ValidCommand

variable {s : State} {c : Command} (hm : s.mode = modeIdle) (hs : s.stuck? = none) (hc : s.calls = [])
  (hv : s.pins.cmdValid = 1) (hcmd : s.pins.cmd = c) (hval : validate (descriptorOf c) = none)
include hm hs hc hv hcmd hval

/-- The edge that accepts a valid command starts its frame (R160). -/
theorem step_of_valid_command (hr : s.pins.rst ≠ 1) : step s = .next (s.startFrame c).nextPins := by
  rw [step_eq_edgeEffect hc hr hs, edgeEffect_of_command hm hv, hcmd, acceptCommand_of_valid s hval]

/-- After the accepting edge the frame is delivered at the consumer's pace. -/
theorem run_of_valid_command {k : Nat} (hrst : ∀ j, j ≤ k → (s.pinsAt j).rst ≠ 1)
    (hle : s.readyEdges k ≤ (construct (descriptorOf c)).bits.length) :
    ∃ t : State, Host.Core.run Sys2Proof.core (1 + k) s = .next t ∧
      t.Delivered s.sent c (s.readyEdges k) ∧ ∀ j, t.pinsAt j = s.pinsAt (k + j + 1) := by
  have hpins (j : Nat) : (s.startFrame c).nextPins.pinsAt j = s.pinsAt (j + 1) := pinsAt_nextPins _ j
  have htaken : (s.startFrame c).nextPins.takenEdges k = s.readyEdges k := by
    rw [readyEdges_eq]
    exact takenEdges_congr (fun j => by rw [hpins, pinsAt_nextPins]) k
  have hstep := step_of_valid_command hm hs hc hv hcmd hval (hrst 0 (Nat.zero_le k))
  have hstart : (s.startFrame c).nextPins.Delivered s.sent c 0 :=
    ((inFrame_startFrame s c).delivered hval hc).nextPins
  obtain ⟨t, hrun, hdelivered, htpins⟩ := hstart.after_run hval k
    (fun j hj => by rw [hpins]; exact hrst (j + 1) hj) (by rw [htaken, Nat.zero_add]; exact hle)
  rw [htaken, Nat.zero_add] at hdelivered
  refine ⟨t, ?_, hdelivered, fun j => by rw [htpins, hpins]⟩
  rw [Nat.add_comm, run_succ_of_step hstep, hrun]

/-- With held levels and a ready consumer each further edge takes one beat, up to the last one. -/
theorem run_of_valid_command_of_held (hf : s.future = []) (hr : s.pins.rst ≠ 1)
    (hready : s.pins.outReady = 1) {k : Nat} (hk : k < (construct (descriptorOf c)).bits.length) :
    ∃ u : State, Host.Core.run Sys2Proof.core (1 + k) s = .next u ∧ u.calls = [] ∧ u.pins = s.pins ∧
      u.InFrame s.sent c k := by
  have htaken := readyEdges_of_held hf hready k
  obtain ⟨u, hrun, hdelivered, hupins⟩ := run_of_valid_command hm hs hc hv hcmd hval
    (fun j _ => by rw [pinsAt_of_no_future hf]; exact hr) (by rw [htaken]; exact hk.le)
  rw [htaken] at hdelivered
  exact ⟨u, hrun, hdelivered.calls_nil, (hupins 0).trans (pinsAt_of_no_future hf _), hdelivered.inFrame hk⟩

/-- The edge at the last beat ends the frame. -/
theorem run_of_valid_command_to_end (hf : s.future = []) (hr : s.pins.rst ≠ 1)
    (hready : s.pins.outReady = 1) :
    ∃ u : State, Host.Core.run Sys2Proof.core (1 + (construct (descriptorOf c)).bits.length) s
      = .next u.nextPins ∧ u.FrameDone s.sent c := by
  obtain ⟨k, hk⟩ : ∃ k, (construct (descriptorOf c)).bits.length = k + 1 :=
    ⟨_, construct_bits_length (descriptorOf c)⟩
  obtain ⟨u, hrun, hcalls, hpins, hframe⟩ := run_of_valid_command_of_held hm hs hc hv hcmd hval hf hr
    hready (k := k) (by omega)
  obtain ⟨hstep, -⟩ := (hframe.inv hval).step_edgeEffect hcalls (by rw [hpins]; exact hr)
  rw [hk]
  refine ⟨u.edgeEffect, run_snoc hrun hstep, ?_⟩
  rcases hframe.edge_cases hval (by rw [hpins]; exact hready) with hmore | ⟨-, hdone⟩
  · have := hmore.lt_length hval
    omega
  · exact hdone

end ValidCommand

/-- Settles O56: the frame is delivered at the consumer's pace. -/
theorem pacingNeverChangesTheResponse : Obligations.PacingNeverChangesTheResponse := by
  intro s c r k hm hs hc hv hcmd hr hrst hle
  obtain ⟨hval, rfl⟩ := assemble_eq_ok hr
  obtain ⟨t, hrun, hdelivered, -⟩ := run_of_valid_command hm hs hc hv hcmd hval
    (fun j hj => by rw [hrst j hj]; decide) hle
  exact ⟨t, hrun, hdelivered.sent_eq⟩

/-- Settles O55: with a ready consumer every edge delivers a beat, and the last one ends the frame. -/
theorem streamEqualsAssemble : Obligations.StreamEqualsAssemble := by
  intro s c r hm hs hc hf hpins hr
  obtain ⟨hval, rfl⟩ := assemble_eq_ok hr
  have hv : s.pins.cmdValid = 1 := by rw [hpins]
  have hcmd : s.pins.cmd = c := by rw [hpins]
  have hrst : s.pins.rst ≠ 1 := by simp [hpins]
  have hready : s.pins.outReady = 1 := by rw [hpins]
  refine ⟨?_, fun k hk => ?_⟩
  · obtain ⟨u, hrun, hdone⟩ := run_of_valid_command_to_end hm hs hc hv hcmd hval hf hrst hready
    obtain ⟨hid, hrtr, hdlc, hdata⟩ := hdone.holds.nextPins
    refine ⟨u.nextPins, hrun, ?_, ?_, ?_, ?_, hid, hrtr, hdlc, hdata⟩
    · rw [State.nextPins_sent, hdone.sent_eq]
    · rw [State.nextPins_mode, hdone.mode_idle]
    · rw [State.nextPins_opos, hdone.opos_eq]
    · rw [State.nextPins_crc, hdone.crc_eq]
  · obtain ⟨u, hrun, -, -, hframe⟩ :=
      run_of_valid_command_of_held hm hs hc hv hcmd hval hf hrst hready hk
    exact ⟨u, hrun, hframe.tracks.mode_run, hframe.sent_eq hval⟩

end Sys2Proof.Machine

namespace Sys2Proof.Machine

/-! ### Errors at the port (R190, R193) -/

/-- VALIDATE finds the identifier or the dlc at fault, or nothing. -/
theorem error_of_validate_descriptorOf {c : Command} {e : EncodeError}
    (h : validate (descriptorOf c) = some e) :
    e = .invalidIdentifier c.id.toNat ∨ e = .invalidDlc c.dlc.toNat := by
  rw [validate_descriptorOf] at h
  split_ifs at h
  · exact .inl (Option.some.inj h).symm
  · exact .inr (Option.some.inj h).symm

/-- Settles O40: the branches of VALIDATE at the port, and the codes of its two causes. -/
theorem portErrorsAreIdentifierOrDlc : Obligations.PortErrorsAreIdentifierOrDlc := by
  intro c
  refine ⟨fun hid => ?_, fun hid hdlc => ?_, fun hid hdlc => ?_, fun e he => ?_⟩
  · rw [validate_descriptorOf, if_pos hid]
  · rw [validate_descriptorOf, if_neg hid.not_gt, if_pos hdlc]
  · rw [validate_descriptorOf, if_neg hid.not_gt, if_neg hdlc.not_gt]
  · rcases error_of_validate_descriptorOf he with rfl | rfl
    · exact .inl rfl
    · exact .inr rfl

end Sys2Proof.Machine

namespace Sys2Proof.Machine

/-! ### No step from the invariant is stuck (R42, R197) -/

/-- A call that gives no value is refused; it never stops the machine (R26). -/
theorem exec_call_ne_fault (c : Call) (s : State) (f : Fault) : exec c.toInstr s ≠ .fault f := by
  rcases exec_call_cases c with ⟨v, hv⟩ | hr
  · rw [hv s]
    exact nofun
  · obtain ⟨r, hr⟩ := hr s
    rw [hr]
    exact nofun

/-- A reset edge completes from any state (R220). -/
theorem step_of_reset {s : State} (hc : s.calls = []) (hr : s.pins.rst = 1) :
    step s = .next s.resetRegisters.nextPins := by
  rw [step_of_no_call hc, edge, if_pos hr]

/-- Every edge completes, with reset or without it. -/
theorem State.Inv.edge_completes {s : State} (h : s.Inv) (hc : s.calls = []) :
    ∃ t, step s = .next t := by
  by_cases hr : s.pins.rst = 1
  · exact ⟨_, step_of_reset hc hr⟩
  · exact ⟨_, step_eq_edgeEffect hc hr h.not_stuck⟩

/-- Settles O54: a step is a call, which never faults, or an edge, which completes. -/
theorem noStuckStateFromTheInvariant : Obligations.NoStuckStateFromTheInvariant := by
  intro s h
  refine ⟨fun f => ?_, h.edge_completes⟩
  cases hc : s.calls with
  | cons c rest =>
    rw [step_of_call hc]
    exact exec_call_ne_fault c _ f
  | nil =>
    obtain ⟨t, ht⟩ := h.edge_completes hc
    rw [ht]
    exact nofun

end Sys2Proof.Machine

namespace Sys2Proof.Machine

/-! ### An invalid command from its acceptance to its error beat (R196 to R198) -/

/-- Raising an error leads to no stuck state: the position and the latch are not read in ERR (R79). -/
theorem raiseError_not_stuck {s : State} (hs : s.stuck? = none) (e : EncodeError) :
    (s.raiseError e).stuck? = none := by
  obtain ⟨-, -, hrun, -, -⟩ := stuck_eq_none_iff.mp hs
  exact stuck_eq_none_iff.mpr ⟨by simp, by simp, hrun, by simp, by simp⟩

/-- The return undoes the raise: what is left of the error is its beat (R197, R198). -/
theorem returnFromError_raiseError {s : State} (hm : s.mode = modeIdle) (he : s.ecode = 0)
    (e : EncodeError) :
    (s.raiseError e).returnFromError = { s with sent := s.sent ++ e.response } := by
  show { s with sent := s.sent ++ e.response, mode := modeIdle, ecode := 0 } = _
  rw [← hm, ← he]

/-- The edge that accepts an invalid command raises its error (R160, R196). -/
theorem step_of_invalid_command {s : State} {e : EncodeError} (hm : s.mode = modeIdle)
    (hs : s.stuck? = none) (hc : s.calls = []) (hr : s.pins.rst ≠ 1) (hv : s.pins.cmdValid = 1)
    (hval : validate (descriptorOf s.pins.cmd) = some e) :
    step s = .next (s.raiseError e).nextPins := by
  rw [step_eq_edgeEffect hc hr hs, edgeEffect_of_command hm hv, acceptCommand_of_invalid s hval]

/-- The edge that takes the error beat returns from the error (R176). -/
theorem step_of_error_beat {s : State} (hm : s.mode = modeErr) (hs : s.stuck? = none)
    (hc : s.calls = []) (hr : s.pins.rst ≠ 1) (hready : s.pins.outReady = 1) :
    step s = .next s.returnFromError.nextPins := by
  have hidle : s.mode ≠ modeIdle := by rw [hm]; decide
  rw [step_eq_edgeEffect hc hr hs, edgeEffect_of_ready hidle hready, if_pos hm]

/-- Without a plan the input levels are held (log entry 4). -/
theorem nextPins_of_no_future {s : State} (hf : s.future = []) : s.nextPins = s := by
  rw [State.nextPins, hf]

/-- Settles O57: the first edge raises the error, the second takes its beat and returns. -/
theorem errorLeavesOnlyItsBeat : Obligations.ErrorLeavesOnlyItsBeat := by
  intro s c e hm hs hc hf hpins he
  have hr : s.pins.rst ≠ 1 := by simp [hpins]
  have hv : s.pins.cmdValid = 1 := by rw [hpins]
  have hready : s.pins.outReady = 1 := by rw [hpins]
  have hval : validate (descriptorOf s.pins.cmd) = some e := by
    rw [hpins]
    exact assemble_eq_error he
  have hraise : step s = .next (s.raiseError e) := by
    rw [step_of_invalid_command hm hs hc hr hv hval, nextPins_of_no_future (s := s.raiseError e) hf]
  have hreturn : step (s.raiseError e) = .next (s.raiseError e).returnFromError := by
    rw [step_of_error_beat rfl (raiseError_not_stuck hs e) hc hr hready,
      nextPins_of_no_future (s := (s.raiseError e).returnFromError) hf]
  have hecode : s.ecode = 0 := by
    obtain ⟨-, hcode, -⟩ := stuck_eq_none_iff.mp hs
    exact hcode (by rw [hm]; decide)
  rw [← returnFromError_raiseError hm hecode, run_succ_of_step hraise, run_succ_of_step hreturn]
  rfl

end Sys2Proof.Machine

namespace Sys2Proof.Machine

/-! ### The reset edge (R220, R221) -/

theorem cmdReady_of_idle {s : State} (h : s.mode = modeIdle) : s.cmdReady = 1 := by
  simp [State.cmdReady, h]

theorem outValid_of_idle {s : State} (h : s.mode = modeIdle) : s.outValid = 0 := by
  simp [State.outValid, h]

/-- Settles O47: the next input levels leave the reset registers as they are, and the outputs are those of
IDLE. -/
theorem resetEdgeGivesTheResetState : Obligations.ResetEdgeGivesTheResetState := by
  intro s hc hr
  have hidle : s.resetRegisters.nextPins.mode = modeIdle := State.nextPins_mode _
  refine ⟨s.resetRegisters.nextPins, step_of_reset hc hr, ?_⟩
  simp [cmdReady_of_idle hidle, outValid_of_idle hidle, offered_of_idle hidle]

end Sys2Proof.Machine

namespace Sys2Proof.Machine

/-! ### STUFF.STEP outside its operands (R121, U16) -/

theorem exec_stuffStep_of_ge (s : State) {run : Nat} (h : 5 ≤ run) (prev b : Bit) (out : BitSeq)
    (ins : List Nat) : exec (.stuffStep run prev out ins b) s = .refused (.stuffRunOutOfRange run) :=
  if_neg (by omega)

/-- Settles O12: a run of five fails the guard of STUFF.STEP. -/
theorem stuffStepRefusesARunOfFive : Obligations.StuffStepRefusesARunOfFive := by
  intro s run prev b out ins h
  exact exec_stuffStep_of_ge s h prev b out ins

end Sys2Proof.Machine
